-- ==== Sys2Proof/Word.lean ====
section
/-! DEFINITION. The words that move through the block, each with the width the spec gives it. -/

namespace Sys2Proof

/-- A frame byte (30_encoding R60). -/
abbrev Byte := BitVec 8

/-- An axis value or a channel value before the encoder's mask (30_encoding R53, R58). -/
abbrev Half := BitVec 16

/-- A report word, 36 bits (30_encoding R48). -/
abbrev ReportWord := BitVec 36

/-- A command word, 34 bits (30_encoding R57). -/
abbrev CommandWord := BitVec 34

/-- A ChannelVector: 16 channel values of 16 bits (00_scope R3, 30_encoding R58). -/
abbrev ChannelVector := Vector Half 16

/-- A frame: 25 bytes, byte 0 first (00_scope R3, 30_encoding R59). -/
abbrev Frame := Vector Byte 25

end Sys2Proof
end

