-- ==== Sys2Proof/Syntax.lean ====
section
/-! DEFINITION. The report forms (30_encoding R54), the ports they come from, and the textual syntax of R62 and R63. -/

namespace Sys2Proof

/-- The two report ports. L is port 0 and R is port 1 (60_exceptions R164). -/
inductive Port where
  | left
  | right
deriving DecidableEq, Repr, Inhabited

/-- The port number, as ARB_LAST holds it (10_state R19). -/
def Port.number : Port → BitVec 1
  | .left => 0#1
  | .right => 1#1

/-- The other port: `q` of 42_arbitration_resolver R92. -/
def Port.other : Port → Port
  | .left => .right
  | .right => .left

/-- The direction event that DIRREQ selects (30_encoding R50). -/
inductive DirRequest where
  | none
  | setForward
  | setReverse
  | toggle
deriving DecidableEq, Repr

/-- The nine report forms: one constructor for each row of the opcode table (30_encoding R54).
`p` is the port that the word was popped from, `h` and `v` are the fields H and V. The port is an operand of
every form (42_arbitration_resolver R93 to R101) that no bit of the word holds. -/
inductive Instr where
  /-- RPT: axis-only report (R93). -/
  | rpt (p : Port) (h v : Half)
  /-- RPT.F: set Forward (R94). -/
  | rptF (p : Port) (h v : Half)
  /-- RPT.R: set Reverse (R95). -/
  | rptR (p : Port) (h v : Half)
  /-- RPT.T: toggle the direction (R96). -/
  | rptT (p : Port) (h v : Half)
  /-- RPT.A: toggle armed (R97). -/
  | rptA (p : Port) (h v : Half)
  /-- RPT.AF: toggle armed and set Forward (R98). -/
  | rptAF (p : Port) (h v : Half)
  /-- RPT.AR: toggle armed and set Reverse (R99). -/
  | rptAR (p : Port) (h v : Half)
  /-- RPT.AT: toggle armed and toggle the direction (R100). -/
  | rptAT (p : Port) (h v : Half)
  /-- RPT.ERR: input read failure; `ignored` is bits [34:0], which have no effect (R101). -/
  | rptErr (p : Port) (ignored : BitVec 35)
deriving DecidableEq, Repr

/-- The port that a report comes from. -/
def Instr.port : Instr → Port
  | .rpt p _ _ => p
  | .rptF p _ _ => p
  | .rptR p _ _ => p
  | .rptT p _ _ => p
  | .rptA p _ _ => p
  | .rptAF p _ _ => p
  | .rptAR p _ _ => p
  | .rptAT p _ _ => p
  | .rptErr p _ => p

/-- The mnemonics of the textual syntax (30_encoding R54, R62). -/
inductive Mnemonic where
  | RPT
  | RPT_F
  | RPT_R
  | RPT_T
  | RPT_A
  | RPT_AF
  | RPT_AR
  | RPT_AT
  | RPT_ERR
deriving DecidableEq, Repr

/-- One report line of a program, `<port>: <mnemonic> [h=<n>] [v=<n>]`, with its numbers as they are written (30_encoding R62). -/
structure SourceLine where
  port : Port
  mnemonic : Mnemonic
  h : Option Nat
  v : Option Nat
deriving DecidableEq, Repr

/-- The pseudo-forms for the byte sink; each expands to nothing in the block (30_encoding R63). -/
inductive SinkForm where
  /-- `tx_ready = 1` and `tx_err = 0` until told otherwise. -/
  | accept
  /-- `tx_ready = 0`. -/
  | stall
  /-- `tx_err = 1` for one cycle, at the next byte offered. -/
  | fail
deriving DecidableEq, Repr

end Sys2Proof
end

