-- ==== Sys2Proof/Config.lean ====
section
/-! DEFINITION. What an implementation fixes (00_scope R4), what the outside world may do at each step, and the free
values: opaque constants with no body, of which nothing can be proved. -/

namespace Sys2Proof

/-- Which port is served when both show a report (00_scope R4, 44_cdc_ingress R144). -/
inductive ArbPolicy where
  | leftFirst
  | rightFirst
  | roundRobin
deriving DecidableEq, Repr

/-- The synthesis-time parameters of 00_scope R4. -/
structure Params where
  /-- P_HEADER: frame byte 0. -/
  header : Byte
  /-- P_THR_HI: the channel value for armed and for Forward. -/
  thrHi : Half
  /-- P_THR_LO: the channel value for disarmed and for Reverse. -/
  thrLo : Half
  /-- P_AUX: channels 6 and 7. -/
  aux : Half
  /-- P_FILL: channels 1, 3 and 8 to 15. -/
  fill : Half
  /-- RPT_FIFO_DEPTH: entries in each report FIFO. -/
  rptDepth : Nat
  /-- CMD_FIFO_DEPTH: entries in the command FIFO. -/
  cmdDepth : Nat
  /-- SYNC_STAGES: flip-flops in each synchronizer; it sets time only, and a model holds no time (44_cdc_ingress R141, R146). -/
  syncStages : Nat
  /-- ARB_POLICY; `none` leaves it OPEN, as 44_cdc_ingress R146 asks of a model. -/
  arbPolicy : Option ArbPolicy
deriving DecidableEq, Repr

/-- The domains of 00_scope R4: RPT_FIFO_DEPTH is a power of two and at least 2, CMD_FIFO_DEPTH is at least 1, SYNC_STAGES at least 2. -/
def Params.wf (c : Params) : Bool :=
  decide (2 ≤ c.rptDepth) && decide (2 ^ Nat.log2 c.rptDepth = c.rptDepth) && decide (1 ≤ c.cmdDepth) && decide (2 ≤ c.syncStages)

/-- The defaults of 00_scope R4, but for ARB_POLICY, which a model leaves open (D11, 44_cdc_ingress R146). -/
def Config.defaults : Params where
  header := 0x0F#8
  thrHi := 1807#16
  thrLo := 240#16
  aux := 240#16
  fill := 0#16
  rptDepth := 4
  cmdDepth := 4
  syncStages := 2
  arbPolicy := none

/-- What is sampled at a rising edge of a port clock (30_encoding R47). -/
structure PortInputs where
  /-- `p_valid`. -/
  valid : Bool
  /-- `p_data`. -/
  data : ReportWord
  /-- How many more freed entries the synchronized read pointer shows to the write side after this edge (44_cdc_ingress R140, R142). -/
  freed : Nat
  /-- Whether a domain still in reset, with `rst_n = 1`, leaves it at this edge (70_reset_and_hazards R168). -/
  leaveReset : Bool
deriving DecidableEq, Repr, Inhabited

/-- What is sampled at a rising edge of `clk` (30_encoding R47). -/
structure CoreInputs where
  /-- `tx_ready`. -/
  txReady : Bool
  /-- `tx_err`. -/
  txErr : Bool
  /-- The port that is served when both show a word and ARB_POLICY is left open (44_cdc_ingress R146). -/
  pick : Port
  /-- How many more words of the left port may show to the core after this edge: fewer do where a delay would fall (44_cdc_ingress R141). -/
  showLeft : Nat
  /-- The same of the right port. -/
  showRight : Nat
  /-- Whether a core still in reset, with `rst_n = 1`, leaves it at this edge (70_reset_and_hazards R168). -/
  leaveReset : Bool
deriving DecidableEq, Repr, Inhabited

/-- How many more words of a port may show after an edge of `clk`. -/
def CoreInputs.shows (i : CoreInputs) : Port → Nat
  | .left => i.showLeft
  | .right => i.showRight

/-- One thing that happens to the block. Each step of the model is one of these; the three clocks have no ratio and no
phase (44_cdc_ingress R148), so they may come in any order. -/
inductive EnvEvent where
  /-- `rst_n` falls (R167). -/
  | resetAsserts
  /-- `rst_n` rises (R168). -/
  | resetReleases
  /-- A rising edge of `p_clk` (R140). Nothing else changes what the write side of `p` knows (R148; 60_exceptions R166). -/
  | portEdge (p : Port) (i : PortInputs)
  /-- A rising edge of `clk` (R12, R143). Nothing else but reset changes what the core sees (R148; 60_exceptions R166). -/
  | coreEdge (i : CoreInputs)
deriving DecidableEq, Repr, Inhabited

/-- FREE VALUE: what the outside world does at a step that `script` says nothing of (log 2). -/
opaque Config.environment : Nat → EnvEvent

/-- FREE VALUE: `tx_data` in a cycle with `tx_valid = 0` (43_command_path R127; log 7). -/
opaque Config.idleTxData : Nat → Byte

/-- FREE VALUE: FRAME_BUF after an assertion of `rst_n` (10_state R13, R30; log 6). -/
opaque Config.resetFrame : Nat → Frame

/-- One calibration of the axis mapper: its source range, its target range and its invert bit (41_axis_mapper_reference R80). -/
structure Calibration where
  smin : Int
  smax : Int
  tmin : Int
  tmax : Int
  invert : Bool
deriving DecidableEq, Repr

/-- The left controller's horizontal axis (41_axis_mapper_reference R87). -/
def Config.leftHorizontal : Calibration := ⟨670, 3240, 240, 1807, true⟩

/-- The left controller's vertical axis (41_axis_mapper_reference R87). -/
def Config.leftVertical : Calibration := ⟨1080, 3240, 240, 1807, false⟩

end Sys2Proof
end

