-- ==== Sys2Proof/WellFormed.lean ====
section
/-! DEFINITION. Which terms are well-formed: source lines (30_encoding R62) and instructions (R55). The check on the
parameters is `Params.wf` (00_scope R4). -/

namespace Sys2Proof

/-- A number of a source line is an integer from 0 to 65535, or omitted (30_encoding R62). -/
def SourceLine.numberOk (n : Option Nat) : Bool := decide (n.getD 0 ≤ 65535)

/-- RPT.ERR takes no `h` and no `v` (30_encoding R62). -/
def SourceLine.operandsOk (l : SourceLine) : Bool :=
  match l.mnemonic with
  | .RPT_ERR => l.h.isNone && l.v.isNone
  | .RPT => true
  | .RPT_F => true
  | .RPT_R => true
  | .RPT_T => true
  | .RPT_A => true
  | .RPT_AF => true
  | .RPT_AR => true
  | .RPT_AT => true

/-- A report line that R62 admits. -/
def SourceLine.wellFormed (l : SourceLine) : Bool :=
  SourceLine.numberOk l.h && SourceLine.numberOk l.v && l.operandsOk

/-- An instruction is well-formed when its operands fill their fields. The operands carry the widths of their fields in
their types, and no report word is reserved or illegal (30_encoding R55), so no check is left to make: every form is well-formed. -/
def Instr.wellFormed : Instr → Bool
  | .rpt _ _ _ => true
  | .rptF _ _ _ => true
  | .rptR _ _ _ => true
  | .rptT _ _ _ => true
  | .rptA _ _ _ => true
  | .rptAF _ _ _ => true
  | .rptAR _ _ _ => true
  | .rptAT _ _ _ => true
  | .rptErr _ _ => true

end Sys2Proof
end

