-- ==== Sys2Proof/Decode.lean ====
section
/-! DEFINITION. The fields of a report word, its decoder, its encoder and the assembler of the textual syntax
(30_encoding R48, R54, R55, R62). -/

namespace Sys2Proof

/-- Field H, bits [15:0] (30_encoding R48). -/
def ReportWord.h (w : ReportWord) : Half := w.extractLsb' 0 16

/-- Field V, bits [31:16] (30_encoding R48). -/
def ReportWord.v (w : ReportWord) : Half := w.extractLsb' 16 16

/-- Bits [34:0], which RPT.ERR ignores (30_encoding R52). -/
def ReportWord.low (w : ReportWord) : BitVec 35 := w.extractLsb' 0 35

/-- Field ERR, bit 35 (30_encoding R48). -/
def ReportWord.err (w : ReportWord) : Bool := w.getLsbD 35

/-- Field ARMT, bit 34 (30_encoding R48). -/
def ReportWord.armt (w : ReportWord) : Bool := w.getLsbD 34

/-- Field DIRREQ, bits [33:32] (30_encoding R50). -/
def ReportWord.dirreq (w : ReportWord) : DirRequest :=
  match w.getLsbD 33, w.getLsbD 32 with
  | false, false => .none
  | false, true => .setForward
  | true, false => .setReverse
  | true, true => .toggle

/-- The form of a word popped from port `p`. It is total: bit 35 alone decides RPT.ERR, else bits [34:32] decide one of
eight forms (30_encoding R54, R55). -/
def decode (p : Port) (w : ReportWord) : Instr :=
  match w.err, w.armt, w.dirreq with
  | true, _, _ => .rptErr p w.low
  | false, false, .none => .rpt p w.h w.v
  | false, false, .setForward => .rptF p w.h w.v
  | false, false, .setReverse => .rptR p w.h w.v
  | false, false, .toggle => .rptT p w.h w.v
  | false, true, .none => .rptA p w.h w.v
  | false, true, .setForward => .rptAF p w.h w.v
  | false, true, .setReverse => .rptAR p w.h w.v
  | false, true, .toggle => .rptAT p w.h w.v

/-- The word with form bits [35:32], V and H (30_encoding R48, R54). -/
def reportWord (form : BitVec 4) (h v : Half) : ReportWord := form ++ v ++ h

/-- The word of an instruction (30_encoding R48, R54). -/
def encode : Instr → ReportWord
  | .rpt _ h v => reportWord 0b0000#4 h v
  | .rptF _ h v => reportWord 0b0001#4 h v
  | .rptR _ h v => reportWord 0b0010#4 h v
  | .rptT _ h v => reportWord 0b0011#4 h v
  | .rptA _ h v => reportWord 0b0100#4 h v
  | .rptAF _ h v => reportWord 0b0101#4 h v
  | .rptAR _ h v => reportWord 0b0110#4 h v
  | .rptAT _ h v => reportWord 0b0111#4 h v
  | .rptErr _ ignored => 1#1 ++ ignored

/-- Why bits given as a number are no report word. -/
inductive DecodeRefusal where
  /-- A bit above bit 35 is set: a report word has 36 bits (30_encoding R48, R61). Raised by `decodeNumber`. Safe: no such word exists. -/
  | widerThanReport
deriving DecidableEq, Repr

/-- The instruction whose bits are the number `w`, bit 0 the least significant (00_scope R7), as it comes from port `p`. -/
def decodeNumber (p : Port) (w : Nat) : Except DecodeRefusal Instr :=
  if w < 2 ^ 36 then .ok (decode p (BitVec.ofNat 36 w)) else .error .widerThanReport

/-- What the decoder reads from `nbits` bits `w` numbered as the opcode table numbers them; every bit above `nbits` is 0.
The word holds no port; it is read as it comes from the left port, the port into which `State.withFetchWord` puts it (log 12). -/
def decodeTableWord (nbits w : Nat) : Option Instr :=
  match decodeNumber .left (w % 2 ^ nbits) with
  | .ok i => some i
  | .error _ => none

/-- The form that a mnemonic of the textual syntax names (30_encoding R54, R62). An assembled RPT.ERR has bits [34:0] zero. -/
def Mnemonic.form (m : Mnemonic) (p : Port) (h v : Half) : Instr :=
  match m with
  | .RPT => .rpt p h v
  | .RPT_F => .rptF p h v
  | .RPT_R => .rptR p h v
  | .RPT_T => .rptT p h v
  | .RPT_A => .rptA p h v
  | .RPT_AF => .rptAF p h v
  | .RPT_AR => .rptAR p h v
  | .RPT_AT => .rptAT p h v
  | .RPT_ERR => .rptErr p 0#35

/-- The instruction of a report line; an omitted `h` or `v` is 0, and a line that R62 does not admit has none (30_encoding R62). -/
def SourceLine.assemble (l : SourceLine) : Option Instr :=
  if l.wellFormed then some (l.mnemonic.form l.port (BitVec.ofNat 16 (l.h.getD 0)) (BitVec.ofNat 16 (l.v.getD 0))) else none

end Sys2Proof
end

