-- ==== Sys2Proof/Machine/State.lean ====
section
/-! DEFINITION. The state of the block (10_state R13), the state its rules imply, the model's own fields, and the
state after reset. INVENTORY.md, heading State, gives each field's rule and reset value. -/

namespace Sys2Proof.Machine

/-- A ControllerIntent: `fwd` (true = Forward) and `armed` (00_scope R9, R10; 10_state R15). -/
structure Intent where
  fwd : Bool
  armed : Bool
deriving DecidableEq, Repr

/-- The emitter's state; the code 0b11 is never reached, so it is no value (10_state R22). -/
inductive EState where
  | idle
  | send
  | failed
deriving DecidableEq, Repr

/-- The state of `rst_n` (70_reset_and_hazards R167, R168, R172). -/
inductive ResetLine where
  /-- `rst_n` has not been asserted since power-on: the state of the block is unspecified (R172). -/
  | powerOn
  /-- `rst_n = 0`. -/
  | asserted
  /-- `rst_n = 1`, after an assertion. -/
  | released
deriving DecidableEq, Repr

/-- One report FIFO with its two clock sides (10_state R20, 44_cdc_ingress R138 to R142). -/
structure ReportFifo where
  /-- QL or QR: the report words pushed and not yet popped, oldest first. -/
  words : List ReportWord
  /-- The youngest words have not crossed to the core-side view yet: for each of them, oldest first, the core cycles since its
  push (44_cdc_ingress R141; log 5). -/
  ages : List Nat
  /-- The delay, in core cycles, of the port's last word that crossed; 0 before the first (44_cdc_ingress R141; log 5). -/
  lastDelay : Nat
  /-- How many popped entries the write side does not know of yet. -/
  unfreed : Nat
  /-- The word that the producer offers and that has not been taken (44_cdc_ingress R149; log 8). -/
  offer : Option ReportWord
  /-- The port's clock domain has left reset (70_reset_and_hazards R168). -/
  live : Bool
deriving DecidableEq, Repr

/-- The machine. Every field is plain data. -/
structure State where
  /-- INTENT_L (R15). -/
  intentL : Intent
  /-- INTENT_R (R15). -/
  intentR : Intent
  /-- ARB_LAST: the port served last (R19). -/
  arbLast : Port
  /-- QL and its two clock sides (R20). -/
  ql : ReportFifo
  /-- QR and its two clock sides (R20). -/
  qr : ReportFifo
  /-- QC: the command words pushed and not yet popped, oldest first (R21). -/
  qc : List CommandWord
  /-- ESTATE (R22). -/
  estate : EState
  /-- IDX, 0 to 24 (R23). -/
  idx : Fin 25
  /-- FRAME_BUF, byte 0 first (R24). -/
  frameBuf : Frame
  /-- `rst_n` (70_reset_and_hazards R167). -/
  resetLine : ResetLine
  /-- The core and the emitter have left reset (70_reset_and_hazards R168). -/
  coreLive : Bool
  /-- The synthesis-time parameters (00_scope R4): not state of the block, and written by no step (log 3). -/
  params : Params
  /-- What the outside world is given to do next (log 2). -/
  script : List EnvEvent
  /-- Steps taken; only the free values read it (log 2). -/
  tick : Nat
  /-- The bytes that the sink has accepted, oldest first (70_reset_and_hazards R184; log 11). -/
  delivered : List Byte
deriving DecidableEq, Repr

/-- No step of this model ends in a fault: no rule of the block needs one (93_implementation_defined, end of part 1).
A transport failure is the state FAILED, in which the block runs on (60_exceptions R155). -/
inductive Fault where
deriving DecidableEq, Repr

/-- Why a step gives no next state. -/
inductive Refusal where
  /-- An instruction that has no meaning yet; raised by an arm of `exec`, and no arm raises it. Safe: the model stops. -/
  | notModelled (mnemonic : String)
  /-- EV_PRODUCER_PROTOCOL: the producer of port `p` changed `p_data` or dropped `p_valid` before its word was taken
  (44_cdc_ingress R149, 60_exceptions R153); raised at that port's edge. Safe: the model stops where the block's behaviour is not specified. -/
  | producerProtocol (p : Port)
  /-- A step before the first assertion of `rst_n`, where the state is unspecified (70_reset_and_hazards R172); raised by `step`.
  Safe: the model stops where the block's behaviour is not specified. -/
  | stateBeforeReset
deriving DecidableEq, Repr

/-- A ControllerIntent after reset: Forward, disarmed (10_state R15). -/
def Intent.reset : Intent := { fwd := true, armed := false }

/-- An empty report FIFO (10_state R20) in a port domain that has left reset or not. -/
def ReportFifo.empty (live : Bool) : ReportFifo :=
  { words := [], ages := [], lastDelay := 0, unfreed := 0, offer := none, live := live }

/-- The machine right after reset: every register and queue at the value of 10_state R13, `rst_n` released and every
domain out of reset (70_reset_and_hazards R169; log 9). FRAME_BUF, whose reset value is unspecified, holds zeros (log 6). -/
def State.reset : State where
  intentL := Intent.reset
  intentR := Intent.reset
  arbLast := .right
  ql := ReportFifo.empty true
  qr := ReportFifo.empty true
  qc := []
  estate := .idle
  idx := 0
  frameBuf := Vector.replicate 25 0#8
  resetLine := .released
  coreLive := true
  params := Config.defaults
  script := []
  tick := 0
  delivered := []

end Sys2Proof.Machine
end

