-- ==== Sys2Proof/Machine/Operands.lean ====
section
/-! DEFINITION. The operands of the block's operations: the own and the other side's registers (42_arbitration_resolver
R92) and the fields of a command word (30_encoding R57). -/

namespace Sys2Proof.Machine

/-- The intent register of a side (10_state R15). -/
def State.intent (s : State) : Port → Intent
  | .left => s.intentL
  | .right => s.intentR

/-- `INTENT_p <- x`. -/
def State.setIntent (s : State) (p : Port) (x : Intent) : State :=
  match p with
  | .left => { s with intentL := x }
  | .right => { s with intentR := x }

/-- The report FIFO of a port (10_state R20). -/
def State.fifo (s : State) : Port → ReportFifo
  | .left => s.ql
  | .right => s.qr

/-- The report FIFO of a port becomes `f`. -/
def State.setFifo (s : State) (p : Port) (f : ReportFifo) : State :=
  match p with
  | .left => { s with ql := f }
  | .right => { s with qr := f }

/-- The command word `{armed, fwd, v, h}`, the first the most significant (30_encoding R57). -/
def commandWord (armed fwd : Bool) (v h : Half) : CommandWord :=
  BitVec.ofBool armed ++ BitVec.ofBool fwd ++ v ++ h

/-- Field `armed` of a command word, bit 33 (30_encoding R57). -/
def commandArmed (c : CommandWord) : Bool := c.getLsbD 33

/-- Field `fwd` of a command word, bit 32 (30_encoding R57). -/
def commandFwd (c : CommandWord) : Bool := c.getLsbD 32

/-- Field `v` of a command word, bits [31:16] (30_encoding R57). -/
def commandV (c : CommandWord) : Half := c.extractLsb' 16 16

/-- Field `h` of a command word, bits [15:0] (30_encoding R57). -/
def commandH (c : CommandWord) : Half := c.extractLsb' 0 16

/-- The two bits of an intent register, `fwd` above `armed` (10_state R15). -/
def intentBits (x : Intent) : BitVec 2 := BitVec.ofBool x.fwd ++ BitVec.ofBool x.armed

/-- The two-bit code of an emitter state (10_state R22). -/
def estateCode : EState → BitVec 2
  | .idle => 0b00#2
  | .send => 0b01#2
  | .failed => 0b10#2

end Sys2Proof.Machine
end

