-- ==== Sys2Proof/Machine/Flags.lean ====
section
/-! DEFINITION. The block's flags are the four intent bits (10_state R18): how a report changes them (APPLY), and what the
conflict resolver computes from them (MIX and GATE). -/

namespace Sys2Proof.Machine

/-- The direction after a direction event (42_arbitration_resolver R90). -/
def applyDirection (fwd : Bool) : DirRequest → Bool
  | .none => fwd
  | .setForward => true
  | .setReverse => false
  | .toggle => !fwd

/-- APPLY: the own side's new intent (42_arbitration_resolver R90). -/
def applyEvents (own : Intent) (armt : Bool) (dir : DirRequest) : Intent where
  armed := if armt then !own.armed else own.armed
  fwd := applyDirection own.fwd dir

/-- What MIX answers (42_arbitration_resolver R102). -/
structure Mixed where
  armed : Bool
  fwd : Bool
deriving DecidableEq, Repr

/-- MIX of the left and the right intent (42_arbitration_resolver R102, R109). -/
def mix (l r : Intent) : Mixed where
  armed := l.armed || r.armed
  fwd :=
    if l.armed && r.armed then (if l.fwd = r.fwd then l.fwd else true)
    else if l.armed then l.fwd
    else if r.armed then r.fwd
    else true

/-- MIX with the own side's new intent in its own place (42_arbitration_resolver R92). -/
def mixFor (p : Port) (new other : Intent) : Mixed :=
  match p with
  | .left => mix new other
  | .right => mix other new

/-- GATE: may this report make a command (42_arbitration_resolver R104)? -/
def gate (new other : Intent) : Bool := new.armed && !other.armed

end Sys2Proof.Machine
end

