-- ==== Sys2Proof/Machine/Frame.lean ====
section
/-! DEFINITION. EXPAND (43_command_path R122, R123) and the frame encoder ENCODE with its inverse (40_frame_encoder R67 to R78). -/

namespace Sys2Proof.Machine

/-- The channel value of a Boolean (43_command_path R122). -/
def threshold (c : Params) (b : Bool) : Half := if b then c.thrHi else c.thrLo

/-- EXPAND: the ChannelVector of a command word (43_command_path R123). -/
def expand (c : Params) (cmd : CommandWord) : ChannelVector :=
  #v[commandH cmd, c.fill, commandV cmd, c.fill,
     threshold c (commandArmed cmd), threshold c (commandFwd cmd), c.aux, c.aux,
     c.fill, c.fill, c.fill, c.fill, c.fill, c.fill, c.fill, c.fill]

/-- The byte whose bit `b` is `f b`. -/
def byteOfBits (f : Nat → Bool) : Byte :=
  BitVec.ofBool (f 7) ++ BitVec.ofBool (f 6) ++ BitVec.ofBool (f 5) ++ BitVec.ofBool (f 4) ++
    BitVec.ofBool (f 3) ++ BitVec.ofBool (f 2) ++ BitVec.ofBool (f 1) ++ BitVec.ofBool (f 0)

/-- Bit `k mod 11` of the masked channel `floor(k / 11)`, and 0 beyond the last channel: bit `k` of the 176-bit stream
(40_frame_encoder R68, R71). -/
def streamBit (ch : ChannelVector) (k : Nat) : Bool := ((ch[k / 11]?).getD 0#16).getLsbD (k % 11)

/-- Frame byte `j`: the header, a byte of the stream, or a trailer byte (40_frame_encoder R67, R69 to R71). -/
def frameByte (c : Params) (ch : ChannelVector) (j : Nat) : Byte :=
  if j = 0 then c.header
  else if j ≤ 22 then byteOfBits fun b => streamBit ch (8 * (j - 1) + b)
  else 0x00#8

/-- ENCODE: the frame of a ChannelVector (40_frame_encoder R67). -/
def encodeFrame (c : Params) (ch : ChannelVector) : Frame := Vector.ofFn fun j => frameByte c ch j.val

/-- Stream bit `k` as a frame holds it (20_memory R33, 40_frame_encoder R73). -/
def frameBit (f : Frame) (k : Nat) : Bool := ((f[1 + k / 8]?).getD 0#8).getLsbD (k % 8)

/-- The masked value of channel `i` in a frame: the inverse of ENCODE, a check that the block does not contain (40_frame_encoder R73). -/
def frameChannel (f : Frame) (i : Nat) : BitVec 11 :=
  BitVec.ofNat 11 ((List.range 11).foldr (fun b acc => (frameBit f (11 * i + b)).toNat * 2 ^ b + acc) 0)

end Sys2Proof.Machine
end

