-- ==== Sys2Proof/Machine/Ops.lean ====
section
/-! DEFINITION. The named operations that the report forms and the cycles share: the queues, REPORT_STEP, the entry into
FAILED (the one event taken like an exception) and, beside it, reset (the one way out of it). -/

namespace Sys2Proof.Machine

/-- How many words at the head show in the core-side view: those that have crossed (44_cdc_ingress R142). -/
def ReportFifo.visible (f : ReportFifo) : Nat := f.words.length - f.ages.length

/-- `p_ready`: the write side sees room, and its domain has left reset (44_cdc_ingress R140, 70_reset_and_hazards R168). -/
def fifoReady (depth : Nat) (f : ReportFifo) : Bool := f.live && decide (f.words.length + f.unfreed < depth)

/-- Push at the tail; the word has not crossed to the core-side view yet (44_cdc_ingress R140, R141). -/
def fifoPush (f : ReportFifo) (w : ReportWord) : ReportFifo := { f with words := f.words ++ [w], ages := f.ages ++ [0] }

/-- Pop the head; the write side does not know of it yet (44_cdc_ingress R140, R143). -/
def fifoPop (f : ReportFifo) : ReportFifo :=
  { f with words := f.words.tail, unfreed := f.unfreed + 1 }

/-- The delays of the words that cross, of words that wait `ages` core cycles, oldest first: at most `n` of them, and each only with a
delay not shorter than that of the word before it, `last` for the first (44_cdc_ingress R141). -/
def crossing : Nat → Nat → List Nat → List Nat
  | 0, _, _ => []
  | _ + 1, _, [] => []
  | n + 1, last, a :: ages => if last ≤ a then a :: crossing n a ages else []

/-- One core cycle of the crossing: every word that waits has waited one cycle more, and `n` of them cross, or as many as may
(44_cdc_ingress R141, R142; log 5). -/
def fifoShow (n : Nat) (f : ReportFifo) : ReportFifo :=
  let aged := f.ages.map (· + 1)
  let delays := crossing n f.lastDelay aged
  { f with ages := aged.drop delays.length, lastDelay := delays.getLastD f.lastDelay }

/-- The write side learns of `n` more freed entries, or of all that there are (44_cdc_ingress R140, R142). -/
def fifoFree (n : Nat) (f : ReportFifo) : ReportFifo := { f with unfreed := f.unfreed - n }

/-- The word that the core-side view shows at the head, if any (44_cdc_ingress R142, R143). -/
def fifoShown (f : ReportFifo) : Option ReportWord := if f.visible = 0 then none else f.words.head?

/-- What the two synchronized write pointers show to the core after an edge of `clk` (44_cdc_ingress R141, R148). -/
def State.showWords (s : State) (i : CoreInputs) : State :=
  { s with ql := fifoShow (i.shows .left) s.ql, qr := fifoShow (i.shows .right) s.qr }

/-- `Full(QC)` on the start-of-cycle length (43_command_path R117). -/
def State.commandFull (s : State) : Bool := decide (s.params.cmdDepth ≤ s.qc.length)

/-- The core stall (43_command_path R121). -/
def State.stalled (s : State) : Bool := s.commandFull && decide (s.estate ≠ .failed)

/-- `Push(QC, c)` (43_command_path R114). -/
def State.pushCommand (s : State) (c : CommandWord) : State := { s with qc := s.qc ++ [c] }

/-- `Pop(QC)`, the head dropped (43_command_path R114). -/
def State.popCommand (s : State) : State := { s with qc := s.qc.tail }

/-- The pop of port `p`'s head, with what it leaves in ARB_LAST (44_cdc_ingress R144). -/
def State.popReport (s : State) (p : Port) : State := { s.setFifo p (fifoPop (s.fifo p)) with arbLast := p }

/-- The push that REPORT_STEP makes: none when the gate is 0, and none in FAILED (42_arbitration_resolver R92, 43_command_path R133). -/
def State.offerCommand (s : State) (p : Port) (new other : Intent) (h v : Half) : State :=
  if gate new other && decide (s.estate ≠ .failed) then
    s.pushCommand (commandWord (mixFor p new other).armed (mixFor p new other).fwd v h)
  else s

/-- REPORT_STEP of a report whose ERR is 0 (42_arbitration_resolver R90 to R92): the snapshot is the own side's new intent
with the other side's register, and the push and the intent write take effect together. -/
def reportStep (p : Port) (armt : Bool) (dir : DirRequest) (h v : Half) (s : State) : State :=
  (s.offerCommand p (applyEvents (s.intent p) armt dir) (s.intent p.other) h v).setIntent p
    (applyEvents (s.intent p) armt dir)

/-- `raise TxFail()`: the entry into FAILED. It saves nothing and changes only ESTATE (43_command_path R131, 60_exceptions R160). -/
def State.raiseTxFail (s : State) : State := { s with estate := .failed }

/-- The assertion of `rst_n`: every register and queue takes its value of 10_state R13 at once and every domain is in reset
(70_reset_and_hazards R167, R170); it is the only exit from FAILED (60_exceptions R161). FRAME_BUF is then unspecified: a free
value (10_state R30; log 6). The delivered bytes stay delivered (70_reset_and_hazards R171). -/
def State.assertReset (s : State) : State where
  intentL := Intent.reset
  intentR := Intent.reset
  arbLast := .right
  ql := ReportFifo.empty false
  qr := ReportFifo.empty false
  qc := []
  estate := .idle
  idx := 0
  frameBuf := Config.resetFrame s.tick
  resetLine := .asserted
  coreLive := false
  params := s.params
  script := s.script
  tick := s.tick
  delivered := s.delivered

/-- The release of `rst_n`; each domain leaves reset later, at an edge of its own (70_reset_and_hazards R168). -/
def State.releaseReset (s : State) : State := { s with resetLine := .released }

/-- The core and the emitter leave reset (70_reset_and_hazards R168). -/
def State.startCore (s : State) : State := { s with coreLive := true }

end Sys2Proof.Machine
end

