-- ==== Sys2Proof/Machine/Report.lean ====
section
/-! DEFINITION. The meanings of the nine report forms (42_arbitration_resolver R93 to R101): each is REPORT_STEP (R92) with
the events of its form. When the core pops a report, and when it may not, is in Machine/Cycle.lean. -/

namespace Sys2Proof.Machine

/-- RPT: axis-only report (R93). -/
def execRpt (p : Port) (h v : Half) (s : State) : Host.Outcome State Fault Refusal :=
  .next (reportStep p false .none h v s)

/-- RPT.F: set Forward (R94). -/
def execRptF (p : Port) (h v : Half) (s : State) : Host.Outcome State Fault Refusal :=
  .next (reportStep p false .setForward h v s)

/-- RPT.R: set Reverse (R95). -/
def execRptR (p : Port) (h v : Half) (s : State) : Host.Outcome State Fault Refusal :=
  .next (reportStep p false .setReverse h v s)

/-- RPT.T: toggle the direction (R96). -/
def execRptT (p : Port) (h v : Half) (s : State) : Host.Outcome State Fault Refusal :=
  .next (reportStep p false .toggle h v s)

/-- RPT.A: toggle armed (R97). -/
def execRptA (p : Port) (h v : Half) (s : State) : Host.Outcome State Fault Refusal :=
  .next (reportStep p true .none h v s)

/-- RPT.AF: toggle armed, set Forward (R98). -/
def execRptAF (p : Port) (h v : Half) (s : State) : Host.Outcome State Fault Refusal :=
  .next (reportStep p true .setForward h v s)

/-- RPT.AR: toggle armed, set Reverse (R99). -/
def execRptAR (p : Port) (h v : Half) (s : State) : Host.Outcome State Fault Refusal :=
  .next (reportStep p true .setReverse h v s)

/-- RPT.AT: toggle armed, toggle the direction (R100). -/
def execRptAT (p : Port) (h v : Half) (s : State) : Host.Outcome State Fault Refusal :=
  .next (reportStep p true .toggle h v s)

/-- RPT.ERR: REPORT_STEP returns at once; no register is written and nothing is pushed (R101). -/
def execRptErr (_p : Port) (_ignored : BitVec 35) (s : State) : Host.Outcome State Fault Refusal :=
  .next s

end Sys2Proof.Machine
end

