-- ==== Sys2Proof/Machine/Dispatch.lean ====
section
/-! DEFINITION. One arm for each report form. -/

namespace Sys2Proof.Machine

def exec (i : Instr) (s : State) : Host.Outcome State Fault Refusal :=
  match i with
  | .rpt p h v => Sys2Proof.Machine.execRpt p h v s
  | .rptF p h v => Sys2Proof.Machine.execRptF p h v s
  | .rptR p h v => Sys2Proof.Machine.execRptR p h v s
  | .rptT p h v => Sys2Proof.Machine.execRptT p h v s
  | .rptA p h v => Sys2Proof.Machine.execRptA p h v s
  | .rptAF p h v => Sys2Proof.Machine.execRptAF p h v s
  | .rptAR p h v => Sys2Proof.Machine.execRptAR p h v s
  | .rptAT p h v => Sys2Proof.Machine.execRptAT p h v s
  | .rptErr p ignored => Sys2Proof.Machine.execRptErr p ignored s

end Sys2Proof.Machine
end

