-- ==== Sys2Proof/Machine/Emitter.lean ====
section
/-! DEFINITION. The frame emitter (43_command_path R124 to R134). What it does at an edge is decided from the
start-of-cycle state and takes effect at the edge (00_scope R8), so it is split into a decision and its effect. -/

namespace Sys2Proof.Machine

/-- What the emitter does at one edge of `clk`. -/
inductive EmitterAction where
  /-- Nothing: IDLE or FAILED with QC empty, or SEND with the byte not taken. -/
  | hold
  /-- LOAD of the head of QC (R125). -/
  | load (c : CommandWord)
  /-- The byte is accepted (R128). -/
  | accept
  /-- The write fails (R131). -/
  | fail
  /-- The head of QC is discarded in FAILED (R133). -/
  | discard
deriving DecidableEq, Repr

/-- The emitter's decision (R124, R126, R133, R134): `tx_err` wins over `tx_ready`, and outside SEND both are ignored. -/
def emitterAction (txReady txErr : Bool) (s : State) : EmitterAction :=
  match s.estate with
  | .idle =>
    match s.qc with
    | [] => .hold
    | c :: _ => .load c
  | .send => if txErr then .fail else if txReady then .accept else .hold
  | .failed =>
    match s.qc with
    | [] => .hold
    | _ :: _ => .discard

/-- LOAD (R125). -/
def State.loadFrame (s : State) (c : CommandWord) : State :=
  { s with frameBuf := encodeFrame s.params (expand s.params c), idx := 0, estate := .send }

/-- The byte that the emitter offers (R126). -/
def State.currentByte (s : State) : Byte := s.frameBuf[s.idx]

/-- The sink has accepted byte IDX (R128): the next byte, or IDLE after byte 24. -/
def State.acceptByte (s : State) : State :=
  if h : s.idx.val < 24 then { s with idx := ⟨s.idx.val + 1, by omega⟩, delivered := s.delivered ++ [s.currentByte] }
  else { s with estate := .idle, delivered := s.delivered ++ [s.currentByte] }

/-- The effect of the emitter's decision on a state that the core may have written in the same cycle: the core only pushes
at the tail of QC, so the head is still the old head (R116). -/
def commitEmitter (a : EmitterAction) (s : State) : State :=
  match a with
  | .hold => s
  | .load c => s.popCommand.loadFrame c
  | .accept => s.acceptByte
  | .fail => s.raiseTxFail
  | .discard => s.popCommand

end Sys2Proof.Machine
end

