-- ==== Sys2Proof/Machine/Ingress.lean ====
section
/-! DEFINITION. The report ports' write side and the core's choice of the next report (44_cdc_ingress R138 to R149). -/

namespace Sys2Proof.Machine

/-- The producer changed `p_data` or dropped `p_valid` while its word was waiting (44_cdc_ingress R149). -/
def offerBroken (f : ReportFifo) (i : PortInputs) : Bool :=
  match f.offer with
  | none => false
  | some w => !(i.valid && decide (i.data = w))

/-- A rising edge of `p_clk` with `rst_n = 1`: a word passes when `p_valid` and `p_ready` are 1, and otherwise waits
(44_cdc_ingress R140); the write side may learn of freed entries, from the next edge on (R142); a domain in reset may leave it
(70_reset_and_hazards R168). -/
def samplePort (depth : Nat) (f : ReportFifo) (i : PortInputs) : ReportFifo :=
  { fifoFree i.freed (if i.valid && fifoReady depth f then fifoPush f i.data else f) with
    offer := if i.valid && !fifoReady depth f then some i.data else none
    live := f.live || i.leaveReset }

/-- ARB_POLICY when both FIFOs show a word (44_cdc_ingress R144); `pick` where the policy is left open (R146). -/
def arbitrate (policy : Option ArbPolicy) (arbLast pick : Port) : Port :=
  match policy with
  | none => pick
  | some .leftFirst => .left
  | some .rightFirst => .right
  | some .roundRobin => arbLast.other

/-- The word that port `p` shows to the core, if any. -/
def State.shown (s : State) (p : Port) : Option ReportWord := fifoShown (s.fifo p)

/-- The report that the core pops in this cycle, if any: none in a stall, none when no FIFO shows a word
(44_cdc_ingress R143, R144; 43_command_path R121). -/
def State.nextReport (s : State) (pick : Port) : Option (Port × ReportWord) :=
  if s.stalled then none
  else
    match s.shown .left, s.shown .right with
    | none, none => none
    | some w, none => some (.left, w)
    | none, some w => some (.right, w)
    | some wl, some wr =>
      match arbitrate s.params.arbPolicy s.arbLast pick with
      | .left => some (.left, wl)
      | .right => some (.right, wr)

/-- A state whose next step pops the report word `w` from the left port: `w` stands at the head of QL and has crossed, no word of
the right port has, QC is not full, the core runs, and the next event is an edge of `clk` at which the sink neither takes
a byte nor fails (log 15). -/
def State.placeReport (s : State) (w : ReportWord) : State :=
  { s with
    ql := { s.ql with
      words := w :: s.ql.words.tail
      ages := s.ql.ages.drop (s.ql.ages.length - s.ql.words.tail.length) }
    qr := { s.qr with ages := List.replicate s.qr.visible s.qr.lastDelay ++ s.qr.ages }
    qc := if s.stalled then [] else s.qc
    resetLine := .released
    coreLive := true
    script :=
      .coreEdge { txReady := false, txErr := false, pick := .left, showLeft := 0, showRight := 0, leaveReset := false } ::
        s.script }

end Sys2Proof.Machine
end

