-- ==== Sys2Proof/Machine/Status.lean ====
section
/-! DEFINITION. The block's outputs, all functions of the start-of-cycle state (10_state R26, 30_encoding R47, 43_command_path
R127), quiescence, and the end and the observation of a run (70_reset_and_hazards R184). -/

namespace Sys2Proof.Machine

/-- The eight status outputs (10_state R26). -/
structure StatusOutputs where
  stLFwd : Bool
  stLArmed : Bool
  stRFwd : Bool
  stRArmed : Bool
  stMixArmed : Bool
  stMixFwd : Bool
  stTxFailed : Bool
  stIdle : Bool
deriving DecidableEq, Repr

/-- `st_idle`: no word shows, QC is empty and no frame is being sent (10_state R26). -/
def State.stIdle (s : State) : Bool :=
  decide (s.ql.visible = 0) && decide (s.qr.visible = 0) && s.qc.isEmpty && decide (s.estate ≠ .send)

/-- The status outputs of a state (10_state R26). -/
def State.status (s : State) : StatusOutputs where
  stLFwd := s.intentL.fwd
  stLArmed := s.intentL.armed
  stRFwd := s.intentR.fwd
  stRArmed := s.intentR.armed
  stMixArmed := (mix s.intentL s.intentR).armed
  stMixFwd := (mix s.intentL s.intentR).fwd
  stTxFailed := decide (s.estate = .failed)
  stIdle := s.stIdle

/-- `p_ready` (44_cdc_ingress R140). -/
def State.ready (s : State) (p : Port) : Bool := fifoReady s.params.rptDepth (s.fifo p)

/-- `tx_valid` (43_command_path R127). -/
def State.txValid (s : State) : Bool := decide (s.estate = .send)

/-- `tx_data`: the offered byte in SEND, else unspecified, a free value (43_command_path R127; log 7). -/
def State.txData (s : State) : Byte := if s.txValid then s.currentByte else Config.idleTxData s.tick

/-- Nothing is in the block or half-way into it: `st_idle`, no word still crossing and no word offered and not yet pushed
(70_reset_and_hazards R184). -/
def State.quiescent (s : State) : Bool :=
  s.stIdle && s.ql.words.isEmpty && s.qr.words.isEmpty && s.ql.offer.isNone && s.qr.offer.isNone

/-- An event at which a producer offers a word. -/
def isOffer : EnvEvent → Bool
  | .resetAsserts => false
  | .resetReleases => false
  | .portEdge _ i => i.valid
  | .coreEdge _ => false

/-- The run is finished: the block is quiescent and every producer has pushed its whole report sequence, so that the script holds
no further offer (70_reset_and_hazards R184; log 27). -/
def State.finished (s : State) : Bool := s.quiescent && s.script.all fun e => !isOffer e

/-- The observation of a run: the bytes that the sink accepted, in order, and the final INTENT_L, INTENT_R and ESTATE
(70_reset_and_hazards R184). -/
structure Observation where
  bytes : List Byte
  intentL : Intent
  intentR : Intent
  estate : EState
deriving DecidableEq, Repr

/-- What is observed of a run that has come to this state (70_reset_and_hazards R184). -/
def State.observation (s : State) : Observation :=
  { bytes := s.delivered, intentL := s.intentL, intentR := s.intentR, estate := s.estate }

end Sys2Proof.Machine
end

