-- ==== Sys2Proof/Machine/Cycle.lean ====
section
/-! DEFINITION. What each event does: the core's and the emitter's cycle, a port's edge and reset. -/

namespace Sys2Proof.Machine

/-- The event of the next step: the script's first, and after the script whatever the outside world does (log 2). -/
def State.event (s : State) : EnvEvent :=
  match s.script with
  | [] => Config.environment s.tick
  | e :: _ => e

/-- The state with its event taken. -/
def State.advance (s : State) : State := { s with script := s.script.tail, tick := s.tick + 1 }

/-- The core's part of a cycle: it pops at most one report and applies it whole (44_cdc_ingress R143). -/
def corePart (pick : Port) (s : State) : Host.Outcome State Fault Refusal :=
  match s.nextReport pick with
  | none => .next s
  | some (p, w) => exec (decode p w) (s.popReport p)

/-- One cycle of the core and the emitter, ended by an edge of `clk`. Both read the start-of-cycle state: the emitter's
decision is taken from it, so a command pushed in this cycle is not popped in it, and a failure in this cycle does not stop
this cycle's push (43_command_path R116, R117; 60_exceptions R158). The words that cross at this edge show from the next cycle on
(44_cdc_ingress R141). -/
def coreCycle (i : CoreInputs) (s : State) : Host.Outcome State Fault Refusal :=
  match corePart i.pick s with
  | .next t => .next ((commitEmitter (emitterAction i.txReady i.txErr s) t).showWords i)
  | .fault r => .fault r
  | .refused r => .refused r

/-- An edge of `p_clk` with `rst_n = 1` (44_cdc_ingress R140, R149). -/
def portCycle (p : Port) (i : PortInputs) (s : State) : Host.Outcome State Fault Refusal :=
  if offerBroken (s.fifo p) i then .refused (.producerProtocol p)
  else .next (s.setFifo p (samplePort s.params.rptDepth (s.fifo p) i))

/-- An event with `rst_n = 1`. A core in reset sees no word cross and does nothing until an edge at which it leaves reset
(70_reset_and_hazards R168). A domain whose clock has no edge is held (44_cdc_ingress R148, 60_exceptions R166). -/
def runReleased (e : EnvEvent) (s : State) : Host.Outcome State Fault Refusal :=
  match e with
  | .resetAsserts => .next s.assertReset
  | .resetReleases => .next s
  | .portEdge p i => portCycle p i s
  | .coreEdge i =>
    if s.coreLive then coreCycle i s
    else if i.leaveReset then .next s.startCore
    else .next s

/-- An event with `rst_n = 0`: nothing but its release has an effect (70_reset_and_hazards R167, 60_exceptions R158). -/
def runAsserted (e : EnvEvent) (s : State) : Host.Outcome State Fault Refusal :=
  match e with
  | .resetAsserts => .next s
  | .resetReleases => .next s.releaseReset
  | .portEdge _ _ => .next s
  | .coreEdge _ => .next s

/-- An event before the first assertion of `rst_n`: a run that does not start from reset is refused (70_reset_and_hazards R172). -/
def runPowerOn (e : EnvEvent) (s : State) : Host.Outcome State Fault Refusal :=
  match e with
  | .resetAsserts => .next s.assertReset
  | .resetReleases => .refused .stateBeforeReset
  | .portEdge _ _ => .refused .stateBeforeReset
  | .coreEdge _ => .refused .stateBeforeReset

/-- What an event does. -/
def runEvent (e : EnvEvent) (s : State) : Host.Outcome State Fault Refusal :=
  match s.resetLine with
  | .powerOn => runPowerOn e s
  | .asserted => runAsserted e s
  | .released => runReleased e s

end Sys2Proof.Machine
end

