-- ==== Sys2Proof/Machine/Step.lean ====
section
/-! DEFINITION. One step: one event. -/

namespace Sys2Proof.Machine

/-- One step: the next event, on the state with that event taken. -/
def step (s : State) : Host.Outcome State Fault Refusal := runEvent s.event s.advance

/-- `s` with the instruction's bits where the core pops its next report (log 15). -/
def State.withFetchWord (s : State) (nbits w : Nat) : State := s.placeReport (BitVec.ofNat 36 (w % 2 ^ nbits))

end Sys2Proof.Machine
end

