-- ==== Sys2Proof/Machine/Mapper.lean ====
section
/-! DEFINITION. MAP, the producer's axis mapper: a reference function outside the block, which the block never evaluates
(41_axis_mapper_reference R79 to R88). -/

namespace Sys2Proof.Machine

/-- `a` brought into `lo` to `hi` (41_axis_mapper_reference R80). -/
def clampInt (a lo hi : Int) : Int := if a < lo then lo else if hi < a then hi else a

/-- The integer nearest `num / den` for `den > 0`, the one farther from zero at a tie (41_axis_mapper_reference R80, R84). -/
def roundHalfAway (num den : Int) : Int :=
  if 0 ≤ num then (2 * num + den) / (2 * den) else -((2 * (-num) + den) / (2 * den))

/-- A rounded result as an unsigned 16-bit value (41_axis_mapper_reference R85). -/
def toHalf (y : Int) : Half := BitVec.ofNat 16 (clampInt y 0 65535).toNat

/-- The (possibly mirrored) sample, clamped into the source range: the mirror comes before the clamp
(41_axis_mapper_reference R81, R83). -/
def mapSample (value : Int) (k : Calibration) : Int :=
  clampInt (if k.invert then k.smin + k.smax - value else value) k.smin k.smax

/-- MAP (41_axis_mapper_reference R80); a range with its minimum above its maximum has no value (R86). -/
def axisMap (value : Nat) (k : Calibration) : Option Half :=
  if k.smin = k.smax then some (toHalf (roundHalfAway (k.tmin + k.tmax) 2))
  else if k.smax < k.smin then none
  else some (toHalf (roundHalfAway
    (k.tmin * (k.smax - k.smin) + (mapSample (Int.ofNat value) k - k.smin) * (k.tmax - k.tmin)) (k.smax - k.smin)))

end Sys2Proof.Machine
end

