-- ==== Sys2Proof/Machine/Sink.lean ====
section
/-! DEFINITION. The byte sink of the sink pseudo-forms (30_encoding R63): outside the block, it fixes `tx_ready` and `tx_err`
of an edge of `clk`. -/

namespace Sys2Proof.Machine

/-- What the sink has been told. -/
structure Sink where
  /-- It holds `tx_ready = 1`. -/
  ready : Bool
  /-- It drives `tx_err = 1` at the next byte offered. -/
  failNext : Bool
deriving DecidableEq, Repr

/-- The sink after a pseudo-form (30_encoding R63). -/
def sinkTold (k : Sink) : SinkForm → Sink
  | .accept => { ready := true, failNext := false }
  | .stall => { k with ready := false }
  | .fail => { k with failNext := true }

/-- The edge of `clk` at which a sink answers a state: the sink's inputs put in place of those of the edge `i` (30_encoding R63).
"The next byte it is offered" is the byte offered at the next edge with `tx_valid = 1`, also a byte that was on offer already when
the sink was told to fail: the model's choice (log 22). -/
def sinkEdge (k : Sink) (s : State) (i : CoreInputs) : EnvEvent :=
  .coreEdge { i with txReady := k.ready, txErr := k.failNext && s.txValid }

/-- The sink after that edge: an error is driven for one cycle (30_encoding R63). -/
def sinkAfter (k : Sink) (s : State) : Sink := { k with failNext := k.failNext && !s.txValid }

end Sys2Proof.Machine
end

