-- ==== Sys2Proof/Safety.lean ====
section
/-! DEFINITION. What counts as a good state and a safe run, in the words the statements use. -/

namespace Sys2Proof.Machine

/-- A report FIFO as the rules keep it: the words that have not crossed are words of it (44_cdc_ingress R141, R142), the
write side never exceeds the depth (10_state R20), and a port in reset is empty (44_cdc_ingress R151). -/
structure FifoInv (depth : Nat) (f : ReportFifo) : Prop where
  waiting_le : f.ages.length ≤ f.words.length
  room : f.words.length + f.unfreed ≤ depth
  held : f.live = false → f.words = [] ∧ f.ages = [] ∧ f.lastDelay = 0 ∧ f.unfreed = 0

/-- What every step keeps. -/
structure Inv (s : State) : Prop where
  /-- The parameters are in their domains (00_scope R4). -/
  params_wf : s.params.wf = true
  left : FifoInv s.params.rptDepth s.ql
  right : FifoInv s.params.rptDepth s.qr
  /-- QC holds at most CMD_FIFO_DEPTH commands (10_state R21, 43_command_path R114). -/
  qc_bound : s.qc.length ≤ s.params.cmdDepth
  /-- Every command says armed (42_arbitration_resolver R105). -/
  qc_armed : ∀ c ∈ s.qc, commandArmed c = true
  /-- The frame being sent is the frame of an armed command (42_arbitration_resolver R105, 43_command_path R125). -/
  frame : s.estate = .send → ∃ c, commandArmed c = true ∧ s.frameBuf = encodeFrame s.params (expand s.params c)
  /-- A core in reset holds its reset values (70_reset_and_hazards R167, R168). -/
  core_held : s.coreLive = false → s.intentL = Intent.reset ∧ s.intentR = Intent.reset ∧ s.arbLast = .right ∧
    s.ql.visible = 0 ∧ s.qr.visible = 0 ∧ s.ql.lastDelay = 0 ∧ s.qr.lastDelay = 0 ∧
    s.ql.unfreed = 0 ∧ s.qr.unfreed = 0 ∧ s.qc = [] ∧ s.estate = .idle ∧ s.idx = 0
  /-- While `rst_n` is not released every domain is in reset (70_reset_and_hazards R167). -/
  all_held : s.resetLine ≠ .released → s.coreLive = false ∧ s.ql = ReportFifo.empty false ∧ s.qr = ReportFifo.empty false

/-- The block runs: `rst_n` is released and the core has left reset. -/
def State.running (s : State) : Prop := s.resetLine = .released ∧ s.coreLive = true

/-- What a report from port `p` leaves behind when its own side's new intent is `new` (42_arbitration_resolver R92, R104,
R105): the own side's register takes it, and QC gets one command, armed, in the own side's new direction and with the report's
own axes, exactly when the own side is now armed, the other side is not, and the emitter has not failed. Everything else is as it was. -/
def State.afterReport (s : State) (p : Port) (new : Intent) (h v : Half) : State :=
  match p with
  | .left =>
    { s with
      intentL := new
      qc := if new.armed = true ∧ s.intentR.armed = false ∧ s.estate ≠ .failed then
          s.qc ++ [1#1 ++ BitVec.ofBool new.fwd ++ v ++ h] else s.qc }
  | .right =>
    { s with
      intentR := new
      qc := if new.armed = true ∧ s.intentL.armed = false ∧ s.estate ≠ .failed then
          s.qc ++ [1#1 ++ BitVec.ofBool new.fwd ++ v ++ h] else s.qc }

/-- The FIFO `f` of a port is left as `f'` by an edge of `clk` at which up to `n` of its words cross (44_cdc_ingress R141, R142; log 5).
Every word that waits has waited one core cycle more; the oldest of them cross, and `delays` are theirs. The delay of a word is the same
as or longer than that of the port's word before it, and fewer than `n` words cross only where none waits or the next one's would be
shorter. Nothing else of the FIFO changes. -/
def ReportFifo.Crosses (n : Nat) (f f' : ReportFifo) : Prop :=
  ∃ delays : List Nat,
    f.ages.map (· + 1) = delays ++ f'.ages ∧ delays.length ≤ n ∧ (f.lastDelay :: delays).Pairwise (· ≤ ·) ∧
    (delays.length < n → ∀ a ∈ f'.ages.head?, a < f'.lastDelay) ∧ f'.lastDelay = delays.getLastD f.lastDelay ∧
    f'.words = f.words ∧ f'.unfreed = f.unfreed ∧ f'.offer = f.offer ∧ f'.live = f.live

/-- A FIFO with its head popped: the write side does not know of the freed entry yet (44_cdc_ingress R140, R142, R143). -/
def ReportFifo.popped (f : ReportFifo) : ReportFifo := { f with words := f.words.tail, unfreed := f.unfreed + 1 }

/-- `t` is left by a cycle that started in `s`, ended with the edge `i` and popped the head of port `p`, and nothing of the other
port (44_cdc_ingress R144); words of both ports may cross at that edge (R141). -/
def Popped (i : CoreInputs) (s t : State) (p : Port) : Prop :=
  t.arbLast = p ∧ (s.fifo p).popped.Crosses (i.shows p) (t.fifo p) ∧ (s.fifo p.other).Crosses (i.shows p.other) (t.fifo p.other)

/-- `t` is left by a cycle that started in `s`, ended with the edge `i` and popped no report (44_cdc_ingress R143). -/
def PoppedNone (i : CoreInputs) (s t : State) : Prop :=
  t.arbLast = s.arbLast ∧ s.ql.Crosses (i.shows .left) t.ql ∧ s.qr.Crosses (i.shows .right) t.qr ∧ t.intentL = s.intentL ∧
    t.intentR = s.intentR

/-- What a producer does at an edge keeps the handshake: a word that waits is offered still, unchanged (00_scope R11, 44_cdc_ingress
R149). -/
def State.keepsHandshake (s : State) (p : Port) (i : PortInputs) : Prop :=
  ∀ w, (s.fifo p).offer = some w → i.valid = true ∧ i.data = w

/-- The frame of a command word (43_command_path R125). -/
def State.frameOf (s : State) (c : CommandWord) : Frame := encodeFrame s.params (expand s.params c)

/-- The bytes that the block still owes the sink: the rest of the frame being sent, then the frames of the queued commands in
order. In FAILED it owes nothing (43_command_path R132, R133). -/
def State.owed (s : State) : List Byte :=
  match s.estate with
  | .idle => s.qc.flatMap fun c => (s.frameOf c).toList
  | .send => s.frameBuf.toList.drop s.idx.val ++ s.qc.flatMap fun c => (s.frameOf c).toList
  | .failed => []

/-- Left and right exchanged in a state, with all else as it is. -/
def State.swapSides (s : State) : State :=
  { s with intentL := s.intentR, intentR := s.intentL, arbLast := s.arbLast.other, ql := s.qr, qr := s.ql }

/-- The same report form, from the other port. -/
def swapPort : Instr → Instr
  | .rpt p h v => .rpt p.other h v
  | .rptF p h v => .rptF p.other h v
  | .rptR p h v => .rptR p.other h v
  | .rptT p h v => .rptT p.other h v
  | .rptA p h v => .rptA p.other h v
  | .rptAF p h v => .rptAF p.other h v
  | .rptAR p h v => .rptAR p.other h v
  | .rptAT p h v => .rptAT p.other h v
  | .rptErr p ignored => .rptErr p.other ignored

end Sys2Proof.Machine
end

