-- ==== Sys2Proof/Certificates/Slice0/Obligations.lean ====
section
/-! DEFINITION. The statements for the provers. Each docstring names the rule of spec/ that the statement formalises. -/

open Sys2Proof Sys2Proof.Machine

/-! ## Encoding -/

/-- 30_encoding R48, R54: decoding the word of an instruction, as it comes from the instruction's port, gives it back. -/
def Obligations.DecodeOfEncodeIsTheInstruction : Prop :=
  ∀ i : Instr, i.wellFormed = true → decode i.port (encode i) = i

/-- 30_encoding R54: every word is the encoding of the one instruction it decodes to. For the words with bit 35 set this is the model's
choice: RPT.ERR carries bits [34:0], which have no effect, as an operand (log 13), while R62 assembles RPT.ERR to 0x800000000 only. -/
def Obligations.EncodeOfDecodeIsTheWord : Prop :=
  ∀ (p : Port) (w : ReportWord), encode (decode p w) = w ∧ (decode p w).port = p

/-- 30_encoding R55: the form of any word, by bit 35 and then bits [34:32]. -/
def Obligations.EveryWordIsOneOfTheNineForms : Prop :=
  ∀ (p : Port) (w : ReportWord),
    decode p w =
      if w.getLsbD 35 = true then .rptErr p (w.extractLsb' 0 35)
      else if w.extractLsb' 32 3 = 0b000#3 then .rpt p (w.extractLsb' 0 16) (w.extractLsb' 16 16)
      else if w.extractLsb' 32 3 = 0b001#3 then .rptF p (w.extractLsb' 0 16) (w.extractLsb' 16 16)
      else if w.extractLsb' 32 3 = 0b010#3 then .rptR p (w.extractLsb' 0 16) (w.extractLsb' 16 16)
      else if w.extractLsb' 32 3 = 0b011#3 then .rptT p (w.extractLsb' 0 16) (w.extractLsb' 16 16)
      else if w.extractLsb' 32 3 = 0b100#3 then .rptA p (w.extractLsb' 0 16) (w.extractLsb' 16 16)
      else if w.extractLsb' 32 3 = 0b101#3 then .rptAF p (w.extractLsb' 0 16) (w.extractLsb' 16 16)
      else if w.extractLsb' 32 3 = 0b110#3 then .rptAR p (w.extractLsb' 0 16) (w.extractLsb' 16 16)
      else .rptAT p (w.extractLsb' 0 16) (w.extractLsb' 16 16)

/-- 95_test_vectors section 2.5: words written out from 30_encoding R54 decode to the reports they stand for. -/
def Obligations.WrittenOutWordsDecode : Prop :=
  decode .left 0x003E803E8#36 = .rpt .left 1000 1000 ∧
  decode .left 0x1025801F4#36 = .rptF .left 500 600 ∧
  decode .left 0x203E803E8#36 = .rptR .left 1000 1000 ∧
  decode .left 0x300000000#36 = .rptT .left 0 0 ∧
  decode .left 0x4070F00F0#36 = .rptA .left 240 1807 ∧
  decode .left 0x500000000#36 = .rptAF .left 0 0 ∧
  decode .right 0x604000400#36 = .rptAR .right 1024 1024 ∧
  decode .left 0x700080007#36 = .rptAT .left 7 8 ∧
  decode .left 0xD00000000#36 = .rptErr .left 0x500000000#35

/-- 30_encoding R62: a report line that the syntax admits assembles, and its word is `form * 2^32 + v * 2^16 + h`, with RPT.ERR
at 0x800000000 and an omitted number 0. -/
def Obligations.ReportLinesAssembleToTheirWords : Prop :=
  ∀ l : SourceLine, l.wellFormed = true → ∃ i, l.assemble = some i ∧ i.port = l.port ∧
    (encode i).toNat =
      (match l.mnemonic with
        | .RPT => 0 | .RPT_F => 1 | .RPT_R => 2 | .RPT_T => 3 | .RPT_A => 4 | .RPT_AF => 5 | .RPT_AR => 6 | .RPT_AT => 7
        | .RPT_ERR => 8) * 2 ^ 32 + l.v.getD 0 * 2 ^ 16 + l.h.getD 0

/-! ## The report forms -/

/-- 42_arbitration_resolver R93: RPT. -/
def Obligations.AxisOnlyReportLeavesTheIntent : Prop :=
  ∀ (p : Port) (h v : Half) (s : State),
    decode p (0b0000#4 ++ v ++ h) = .rpt p h v ∧
    exec (.rpt p h v) s = .next (s.afterReport p (s.intent p) h v) ∧
    ((s.intent p).armed = false → exec (.rpt p h v) s = .next s)

/-- 42_arbitration_resolver R94: RPT.F. -/
def Obligations.SetForwardReportSetsForward : Prop :=
  ∀ (p : Port) (h v : Half) (s : State),
    decode p (0b0001#4 ++ v ++ h) = .rptF p h v ∧
    exec (.rptF p h v) s = .next (s.afterReport p { fwd := true, armed := (s.intent p).armed } h v)

/-- 42_arbitration_resolver R95: RPT.R. -/
def Obligations.SetReverseReportSetsReverse : Prop :=
  ∀ (p : Port) (h v : Half) (s : State),
    decode p (0b0010#4 ++ v ++ h) = .rptR p h v ∧
    exec (.rptR p h v) s = .next (s.afterReport p { fwd := false, armed := (s.intent p).armed } h v)

/-- 42_arbitration_resolver R96: RPT.T; two from one port return the direction to where it was. -/
def Obligations.ToggleDirectionReportInvertsDirection : Prop :=
  ∀ (p : Port) (h v : Half) (s : State),
    decode p (0b0011#4 ++ v ++ h) = .rptT p h v ∧
    exec (.rptT p h v) s = .next (s.afterReport p { fwd := !(s.intent p).fwd, armed := (s.intent p).armed } h v)

/-- 42_arbitration_resolver R97: RPT.A. -/
def Obligations.ToggleArmedReportInvertsArmed : Prop :=
  ∀ (p : Port) (h v : Half) (s : State),
    decode p (0b0100#4 ++ v ++ h) = .rptA p h v ∧
    exec (.rptA p h v) s = .next (s.afterReport p { fwd := (s.intent p).fwd, armed := !(s.intent p).armed } h v)

/-- 42_arbitration_resolver R98: RPT.AF. -/
def Obligations.ToggleArmedSetForwardReportDoesBoth : Prop :=
  ∀ (p : Port) (h v : Half) (s : State),
    decode p (0b0101#4 ++ v ++ h) = .rptAF p h v ∧
    exec (.rptAF p h v) s = .next (s.afterReport p { fwd := true, armed := !(s.intent p).armed } h v)

/-- 42_arbitration_resolver R99: RPT.AR. -/
def Obligations.ToggleArmedSetReverseReportDoesBoth : Prop :=
  ∀ (p : Port) (h v : Half) (s : State),
    decode p (0b0110#4 ++ v ++ h) = .rptAR p h v ∧
    exec (.rptAR p h v) s = .next (s.afterReport p { fwd := false, armed := !(s.intent p).armed } h v)

/-- 42_arbitration_resolver R100: RPT.AT. -/
def Obligations.ToggleArmedToggleDirectionReportDoesBoth : Prop :=
  ∀ (p : Port) (h v : Half) (s : State),
    decode p (0b0111#4 ++ v ++ h) = .rptAT p h v ∧
    exec (.rptAT p h v) s = .next (s.afterReport p { fwd := !(s.intent p).fwd, armed := !(s.intent p).armed } h v)

/-- 42_arbitration_resolver R101 with 44_cdc_ingress R141, R143: RPT.ERR, whatever bits [34:0] hold, writes no register and pushes
nothing, and the core's cycle that takes it pops it like any report; beside the emitter's part, words may cross at that edge. That the
ignored bits are an operand is the model's choice (log 13), and so are the fields that hold the crossing (log 5). -/
def Obligations.ErrorReportOnlyLeavesItsFifo : Prop :=
  (∀ (p : Port) (ignored : BitVec 35) (s : State),
    decode p (1#1 ++ ignored) = .rptErr p ignored ∧ exec (.rptErr p ignored) s = .next s) ∧
  ∀ (s : State) (i : CoreInputs) (p : Port) (w : ReportWord),
    s.running → s.event = .coreEdge i → s.nextReport i.pick = some (p, w) → w.getLsbD 35 = true →
      step s = .next ((commitEmitter (emitterAction i.txReady i.txErr s) (s.advance.popReport p)).showWords i)

/-- 42_arbitration_resolver R90 to R92: REPORT_STEP of any word, from its bits: APPLY, MIX of the snapshot with the own side's
new intent, GATE, the push and the write of the own side's intent. -/
def Obligations.ReportStepFollowsTheWordsBits : Prop :=
  ∀ (p : Port) (w : ReportWord) (s : State) (new : Intent) (mixed : Mixed),
    new.armed = (if w.getLsbD 34 = true then !(s.intent p).armed else (s.intent p).armed) →
    new.fwd = (if w.extractLsb' 32 2 = 0b00#2 then (s.intent p).fwd
      else if w.extractLsb' 32 2 = 0b01#2 then true
      else if w.extractLsb' 32 2 = 0b10#2 then false
      else !(s.intent p).fwd) →
    (p = .left → mixed = mix new s.intentR) → (p = .right → mixed = mix s.intentL new) →
      exec (decode p w) s = .next (
        if w.getLsbD 35 = true then s
        else if gate new (s.intent p.other) = true ∧ s.estate ≠ .failed then
          ({ s with qc := s.qc ++ [BitVec.ofBool mixed.armed ++ BitVec.ofBool mixed.fwd ++ w.extractLsb' 16 16 ++
            w.extractLsb' 0 16] } : State).setIntent p new
        else s.setIntent p new)

/-- 42_arbitration_resolver R92, 60_exceptions R156: every report form completes, in every state. -/
def Obligations.EveryReportFormCompletes : Prop :=
  ∀ (i : Instr) (s : State), ∃ t, exec i s = .next t

/-- 42_arbitration_resolver R89: the frame of the report forms: a report changes nothing but the intent of its own port and QC,
and QC only by at most one command at its tail. -/
def Obligations.ReportsTouchOnlyTheirOwnSideAndTheQueue : Prop :=
  ∀ (i : Instr) (s t : State), exec i s = .next t →
    t = { s with intentL := t.intentL, intentR := t.intentR, qc := t.qc } ∧
    t.intent i.port.other = s.intent i.port.other ∧
    ∃ pushed : List CommandWord, pushed.length ≤ 1 ∧ t.qc = s.qc ++ pushed

/-- 42_arbitration_resolver R89: the two axes of an intent do not affect each other: what a report makes of one does not depend
on the other. -/
def Obligations.ArmedAndDirectionAreIndependent : Prop :=
  ∀ (i : Instr) (s s' t t' : State), exec i s = .next t → exec i s' = .next t' →
    ((s.intent i.port).armed = (s'.intent i.port).armed → (t.intent i.port).armed = (t'.intent i.port).armed) ∧
    ((s.intent i.port).fwd = (s'.intent i.port).fwd → (t.intent i.port).fwd = (t'.intent i.port).fwd)

/-- 42_arbitration_resolver R110: each report applies its events exactly once: two toggles from one port, whatever their axes, leave that
port's intent as it was. -/
def Obligations.TwoTogglesRestoreTheIntent : Prop :=
  ∀ (p : Port) (h v h' v' : Half) (s t u : State),
    (exec (.rptA p h v) s = .next t → exec (.rptA p h' v') t = .next u → u.intent p = s.intent p) ∧
    (exec (.rptT p h v) s = .next t → exec (.rptT p h' v') t = .next u → u.intent p = s.intent p) ∧
    (exec (.rptAT p h v) s = .next t → exec (.rptAT p h' v') t = .next u → u.intent p = s.intent p)

/-! ## The conflict resolver -/

/-- 42_arbitration_resolver R102, R109: the mixing policy, case by case. -/
def Obligations.MixFollowsThePolicy : Prop :=
  ∀ l r : Intent,
    (mix l r).armed = (l.armed || r.armed) ∧
    (l.armed = true ∧ r.armed = true ∧ l.fwd = r.fwd → (mix l r).fwd = l.fwd) ∧
    (l.armed = true ∧ r.armed = true ∧ l.fwd ≠ r.fwd → (mix l r).fwd = true) ∧
    (l.armed = true ∧ r.armed = false → (mix l r).fwd = l.fwd) ∧
    (l.armed = false ∧ r.armed = true → (mix l r).fwd = r.fwd) ∧
    (l.armed = false ∧ r.armed = false → (mix l r).fwd = true)

/-- 42_arbitration_resolver R103: MIX is symmetric; with both armed the direction is the OR; armed is 0 exactly when both are disarmed. -/
def Obligations.MixIsSymmetric : Prop :=
  ∀ a b : Intent,
    mix a b = mix b a ∧
    (a.armed = true ∧ b.armed = true → (mix a b).fwd = (a.fwd || b.fwd)) ∧
    ((mix a b).armed = false ↔ a.armed = false ∧ b.armed = false)

/-- 42_arbitration_resolver R105, R112: a command that a report pushes is armed, in the own side's new direction, with the report's own
axes; the own side is then armed and the other is not. -/
def Obligations.PushedCommandIsTheDrivers : Prop :=
  ∀ (i : Instr) (s t : State) (c : CommandWord), exec i s = .next t → t.qc = s.qc ++ [c] →
    commandArmed c = true ∧ commandFwd c = (t.intent i.port).fwd ∧
    commandH c = (encode i).extractLsb' 0 16 ∧ commandV c = (encode i).extractLsb' 16 16 ∧
    (t.intent i.port).armed = true ∧ (t.intent i.port.other).armed = false

/-- 42_arbitration_resolver R104, R106, R107 and 43_command_path R133: a report that is not RPT.ERR makes a command exactly when, after it,
its own side is armed and the other is not, and the emitter has not failed; RPT.ERR makes none. -/
def Obligations.CommandsComeOnlyFromTheOneArmedSide : Prop :=
  ∀ (i : Instr) (s t : State), exec i s = .next t →
    if (t.intent i.port).armed = true ∧ (t.intent i.port.other).armed = false ∧ s.estate ≠ .failed ∧
        (encode i).getLsbD 35 = false then
      ∃ c, t.qc = s.qc ++ [c]
    else t.qc = s.qc

/-- 60_exceptions R162 and 42_arbitration_resolver R103: both ports have the same rights: a report from the other port, in the state with the
sides exchanged, does the same with the sides exchanged. -/
def Obligations.SidesAreInterchangeable : Prop :=
  ∀ (i : Instr) (s t : State), exec i s = .next t → exec (swapPort i) s.swapSides = .next t.swapSides

/-- 44_cdc_ingress R147: of two arming reports, one from each port, applied in either order, exactly the first makes a command. -/
def Obligations.ArmingRaceMakesOneCommand : Prop :=
  ∀ (p : Port) (h v h' v' : Half) (s : State),
    s.intentL.armed = false → s.intentR.armed = false → s.estate ≠ .failed →
      ∃ t u, exec (.rptA p h v) s = .next t ∧ exec (.rptA p.other h' v') t = .next u ∧
        u.qc = s.qc ++ [1#1 ++ BitVec.ofBool (s.intent p).fwd ++ v ++ h] ∧
        u.intentL = { s.intentL with armed := true } ∧ u.intentR = { s.intentR with armed := true }

/-! ## The frame encoder and the expansion -/

/-- 30_encoding R59: the frame, byte by byte. -/
def Obligations.FrameBytesAreTheTable : Prop :=
  ∀ (c : Params) (ch : ChannelVector),
    encodeFrame c ch =
      #v[c.header,
        ch[0].extractLsb' 0 8,
        ch[1].extractLsb' 0 5 ++ ch[0].extractLsb' 8 3,
        ch[2].extractLsb' 0 2 ++ ch[1].extractLsb' 5 6,
        ch[2].extractLsb' 2 8,
        ch[3].extractLsb' 0 7 ++ ch[2].extractLsb' 10 1,
        ch[4].extractLsb' 0 4 ++ ch[3].extractLsb' 7 4,
        ch[5].extractLsb' 0 1 ++ ch[4].extractLsb' 4 7,
        ch[5].extractLsb' 1 8,
        ch[6].extractLsb' 0 6 ++ ch[5].extractLsb' 9 2,
        ch[7].extractLsb' 0 3 ++ ch[6].extractLsb' 6 5,
        ch[7].extractLsb' 3 8,
        ch[8].extractLsb' 0 8,
        ch[9].extractLsb' 0 5 ++ ch[8].extractLsb' 8 3,
        ch[10].extractLsb' 0 2 ++ ch[9].extractLsb' 5 6,
        ch[10].extractLsb' 2 8,
        ch[11].extractLsb' 0 7 ++ ch[10].extractLsb' 10 1,
        ch[12].extractLsb' 0 4 ++ ch[11].extractLsb' 7 4,
        ch[13].extractLsb' 0 1 ++ ch[12].extractLsb' 4 7,
        ch[13].extractLsb' 1 8,
        ch[14].extractLsb' 0 6 ++ ch[13].extractLsb' 9 2,
        ch[15].extractLsb' 0 3 ++ ch[14].extractLsb' 6 5,
        ch[15].extractLsb' 3 8,
        0x00#8,
        0x00#8]

/-- 20_memory R33: channel `i`'s bit `b` is stream bit `11 i + b`, which is bit `(11 i + b) mod 8` of byte `1 + (11 i + b) / 8`. -/
def Obligations.ChannelBitsLieLeastSignificantFirst : Prop :=
  ∀ (c : Params) (ch : ChannelVector) (i : Fin 16) (b : Fin 11) (j : Fin 25),
    j.val = 1 + (11 * i.val + b.val) / 8 →
      (encodeFrame c ch)[j].getLsbD ((11 * i.val + b.val) % 8) = ch[i].getLsbD b.val

/-- 40_frame_encoder R73: two ChannelVectors give the same frame exactly when their masked values agree, and the inverse reads the
masked values back. -/
def Obligations.FramesAgreeExactlyOnMaskedChannels : Prop :=
  ∀ (c : Params) (ch ch' : ChannelVector),
    (encodeFrame c ch = encodeFrame c ch' ↔ ∀ i : Fin 16, ch[i].extractLsb' 0 11 = ch'[i].extractLsb' 0 11) ∧
    ∀ i : Fin 16, frameChannel (encodeFrame c ch) i.val = ch[i].extractLsb' 0 11

/-- 40_frame_encoder R75: `[2047, 0, ...]` sets stream bits 0 to 10 and no other. -/
def Obligations.FullFirstChannelSetsElevenBits : Prop :=
  ∀ (c : Params) (k : Fin 176),
    frameBit (encodeFrame c #v[2047, 0, 0, 0, 0, 0, 0, 0, 0, 0, 0, 0, 0, 0, 0, 0]) k.val = decide (k.val ≤ 10)

/-- 43_command_path R122, R123: what EXPAND puts into each channel. -/
def Obligations.ExpandFillsTheChannels : Prop :=
  ∀ (c : Params) (armed fwd : Bool) (v h : Half) (i : Fin 16),
    (expand c (BitVec.ofBool armed ++ BitVec.ofBool fwd ++ v ++ h))[i] =
      if i = 0 then h
      else if i = 2 then v
      else if i = 4 then (if armed then c.thrHi else c.thrLo)
      else if i = 5 then (if fwd then c.thrHi else c.thrLo)
      else if i = 6 ∨ i = 7 then c.aux
      else c.fill

/-! ## The emitter -/

/-- 43_command_path R124, R125: an edge of `clk` in IDLE loads the oldest command, if there is one; a command pushed in the same cycle
goes behind the others and is not loaded in it (R116, R117). -/
def Obligations.IdleEmitterLoadsTheOldestCommand : Prop :=
  ∀ (s : State) (i : CoreInputs), s.running → s.event = .coreEdge i → s.estate = .idle →
    s.txValid = false ∧
    ∃ t, step s = .next t ∧ t.delivered = s.delivered ∧
      ∃ pushed : List CommandWord, pushed.length ≤ 1 ∧
        match s.qc with
        | [] => t.estate = .idle ∧ t.idx = s.idx ∧ t.frameBuf = s.frameBuf ∧ t.qc = pushed
        | c :: rest =>
          t.estate = .send ∧ t.idx = 0 ∧ t.frameBuf = encodeFrame s.params (expand s.params c) ∧ t.qc = rest ++ pushed

/-- 43_command_path R126 to R128, R131: an edge of `clk` in SEND: `tx_err` fails the write, else `tx_ready` takes the byte, else it is
offered again. That IDX and FRAME_BUF keep their values on `tx_err` is R131 as the model reads it beside K-U12 (log 19); `delivered` is
the model's record of accepted bytes (log 11). -/
def Obligations.SendingEmitterHandsOverOneByte : Prop :=
  ∀ (s : State) (i : CoreInputs), s.running → s.event = .coreEdge i → s.estate = .send →
    s.txValid = true ∧ s.txData = s.frameBuf[s.idx] ∧
    ∃ t, step s = .next t ∧ t.frameBuf = s.frameBuf ∧
      (∃ pushed : List CommandWord, pushed.length ≤ 1 ∧ t.qc = s.qc ++ pushed) ∧
      if i.txErr = true then t.estate = .failed ∧ t.idx = s.idx ∧ t.delivered = s.delivered
      else if i.txReady = true then
        t.delivered = s.delivered ++ [s.frameBuf[s.idx]] ∧
        if s.idx.val < 24 then t.estate = .send ∧ t.idx.val = s.idx.val + 1 else t.estate = .idle
      else t.estate = .send ∧ t.idx = s.idx ∧ t.delivered = s.delivered

/-- 43_command_path R133: an edge of `clk` in FAILED pushes nothing and discards the head of QC; the core does not stall. That IDX and
FRAME_BUF keep their values is R131 as the model reads it beside K-U12 (log 19). -/
def Obligations.FailedEmitterDrainsTheQueue : Prop :=
  ∀ (s : State) (i : CoreInputs), s.running → s.event = .coreEdge i → s.estate = .failed →
    s.stalled = false ∧ s.txValid = false ∧
    ∃ t, step s = .next t ∧ t.estate = .failed ∧ t.qc = s.qc.tail ∧ t.delivered = s.delivered ∧
      t.idx = s.idx ∧ t.frameBuf = s.frameBuf

/-- 43_command_path R132: no event but the assertion of `rst_n` leads out of FAILED, and no byte is delivered in it. -/
def Obligations.FailedIsTerminalUntilReset : Prop :=
  ∀ s t : State, s.estate = .failed → s.event ≠ .resetAsserts → step s = .next t →
    t.estate = .failed ∧ t.txValid = false ∧ t.status.stTxFailed = true ∧ t.delivered = s.delivered

/-- 43_command_path R134: outside SEND a cycle does not depend on `tx_err` (nor on `tx_ready`). -/
def Obligations.SinkInputsMatterOnlyInSend : Prop :=
  ∀ (s : State) (i : CoreInputs) (ready err : Bool) (rest : List EnvEvent), s.estate ≠ .send →
    step { s with script := .coreEdge i :: rest } =
      step { s with script := .coreEdge { i with txReady := ready, txErr := err } :: rest }

/-- 43_command_path R128 and 70_reset_and_hazards R181: from byte 0 of a frame, 25 edges at which the sink accepts deliver the 25 bytes in
order, whatever the core does meanwhile, and leave the emitter in IDLE. `delivered` is the model's record of accepted bytes (log 11). -/
def Obligations.AcceptedFrameIsDeliveredWhole : Prop :=
  ∀ (s : State) (edges : List CoreInputs) (rest : List EnvEvent),
    s.running → s.estate = .send → s.idx = 0 → edges.length = 25 → (∀ i ∈ edges, i.txReady = true ∧ i.txErr = false) →
    s.script = edges.map .coreEdge ++ rest →
      ∃ t : State, Host.Core.run Sys2Proof.core 25 s = .next t ∧ t.estate = .idle ∧
        t.delivered = s.delivered ++ s.frameBuf.toList ∧ t.script = rest

/-- 43_command_path R130 (K-U20): while the sink neither takes the byte nor fails, the emitter offers the same byte, for as many
cycles as that lasts. -/
def Obligations.UnansweredByteIsOfferedForever : Prop :=
  ∀ (n : Nat) (s : State) (edges : List CoreInputs) (rest : List EnvEvent),
    s.running → s.estate = .send → edges.length = n → (∀ i ∈ edges, i.txReady = false ∧ i.txErr = false) →
    s.script = edges.map .coreEdge ++ rest →
      ∃ t : State, Host.Core.run Sys2Proof.core n s = .next t ∧ t.estate = .send ∧ t.idx = s.idx ∧
        t.frameBuf = s.frameBuf ∧ t.delivered = s.delivered

/-- 43_command_path R115, R119, R120: while the emitter has not failed, the bytes delivered followed by the bytes still owed grow only at
their end, by the frame of the command that the core pushes: every command's frame is sent whole, once, in push order. `delivered` is the model's record of accepted bytes (log 11). -/
def Obligations.EveryCommandBecomesItsFrameOnceInOrder : Prop :=
  ∀ s t : State, s.event ≠ .resetAsserts → step s = .next t → t.estate ≠ .failed →
    ∃ pushed : List CommandWord, pushed.length ≤ 1 ∧
      (t.qc = s.qc ++ pushed ∨ t.qc = s.qc.tail ++ pushed) ∧
      t.delivered ++ t.owed = s.delivered ++ s.owed ++ pushed.flatMap fun c => (s.frameOf c).toList

/-! ## The core's cycle and the ports -/

/-- A step at which the core pops a report runs the decoded report: `exec` of what the head of the chosen FIFO decodes to, on the
state with that head popped, then the emitter's start-of-cycle decision (44_cdc_ingress R143, 43_command_path R116), then the
crossing of further words at that edge (R141; log 5). That `exec` is REPORT_STEP alone is the model's choice (log 16). -/
def Obligations.StepRunsTheDecodedReport : Prop :=
  ∀ (s : State) (e : CoreInputs) (p : Port) (w : ReportWord) (i : Instr),
    s.running → s.event = .coreEdge e → s.nextReport e.pick = some (p, w) → decode p w = i → i.wellFormed = true →
      (s.fifo p).words.head? = some w ∧
      ∃ t, exec i (s.advance.popReport p) = .next t ∧
        step s = .next ((commitEmitter (emitterAction e.txReady e.txErr s) t).showWords e)

/-- 44_cdc_ingress R139, R142, R143, R144 and 43_command_path R121: the word that a port shows is the oldest of its FIFO, and it shows
exactly when the core-side view is not empty; which port a cycle of the core pops, and all that the pop leaves in ARB_LAST and in both
FIFOs: none in a stall or when none shows, the only one that shows, and else the one that ARB_POLICY chooses. That some one of the
two is popped under a policy left open is R146 as the model reads it (log 4); the fields of a FIFO's two sides are log 5. -/
def Obligations.CorePopsWhatTheArbitrationChooses : Prop :=
  (∀ (s : State) (p : Port) (w : ReportWord),
    s.shown p = some w ↔ (s.fifo p).visible ≠ 0 ∧ (s.fifo p).words.head? = some w) ∧
  ∀ (s : State) (i : CoreInputs), s.running → s.event = .coreEdge i →
    ∃ t, step s = .next t ∧
      if s.params.cmdDepth ≤ s.qc.length ∧ s.estate ≠ .failed then PoppedNone i s t
      else if s.shown .left = none ∧ s.shown .right = none then PoppedNone i s t
      else if s.shown .right = none then Popped i s t .left
      else if s.shown .left = none then Popped i s t .right
      else if s.params.arbPolicy = some .leftFirst then Popped i s t .left
      else if s.params.arbPolicy = some .rightFirst then Popped i s t .right
      else if s.params.arbPolicy = some .roundRobin then
        (if s.arbLast = .right then Popped i s t .left else Popped i s t .right)
      else Popped i s t .left ∨ Popped i s t .right

/-- 44_cdc_ingress R146 and 20_memory R43: with the policy left open (the model's default, log 4) and both ports showing a word, either port may
be served: the core pops the port that the environment picks, and that port's core-side view then shows one word less, but for the
words that cross at that edge (log 5). -/
def Obligations.OpenArbitrationServesThePickedPort : Prop :=
  ∀ (s : State) (i : CoreInputs) (wl wr : ReportWord), s.running → s.event = .coreEdge i → s.stalled = false →
    s.params.arbPolicy = none → s.shown .left = some wl → s.shown .right = some wr →
      ∃ t, step s = .next t ∧ Popped i s t i.pick ∧
        (i.shows i.pick = 0 → (t.fifo i.pick).visible = (s.fifo i.pick).visible - 1)

/-- 43_command_path R121: in a stall all core state is unchanged, and only the emitter acts; words may still cross (44_cdc_ingress R141; log 5). -/
def Obligations.StalledCoreChangesNothing : Prop :=
  ∀ (s : State) (i : CoreInputs), s.running → s.event = .coreEdge i →
    s.params.cmdDepth ≤ s.qc.length → s.estate ≠ .failed →
      step s = .next ((commitEmitter (emitterAction i.txReady i.txErr s) s.advance).showWords i)

/-- 10_state R17, 44_cdc_ingress R143: but for reset, a step changes at most one of the two intents, and only an edge of `clk` changes one. -/
def Obligations.AtMostOneIntentChangesInAStep : Prop :=
  ∀ s t : State, s.event ≠ .resetAsserts → step s = .next t →
    (t.intentL = s.intentL ∨ t.intentR = s.intentR) ∧
    ((∀ i, s.event ≠ .coreEdge i) → t.intentL = s.intentL ∧ t.intentR = s.intentR)

/-- 44_cdc_ingress R145: with ROUND_ROBIN, from the step at which a port shows a word until that word is popped, at most one word of the
other port is popped: that pop leaves ARB_LAST at the other port, and while ARB_LAST is the other port no word of it is popped. -/
def Obligations.RoundRobinStarvesNoPort : Prop :=
  ∀ (s t : State) (p : Port) (w : ReportWord),
    s.params.arbPolicy = some .roundRobin → s.event ≠ .resetAsserts → s.shown p = some w → step s = .next t →
      (∃ i, s.event = .coreEdge i ∧ Popped i s t p) ∨
      t.shown p = some w ∧
        ((∃ i, s.event = .coreEdge i ∧ Popped i s t p.other) ∧ s.arbLast = p ∨
         t.arbLast = s.arbLast ∧ ∃ pushed, (t.fifo p.other).words = (s.fifo p.other).words ++ pushed)

/-- 44_cdc_ingress R139, R150: but for reset, a step takes at most one word from the head of a report FIFO or adds at most one at its tail,
the head only at an edge of `clk`, and the tail only at an edge of the port's clock at which that word is offered. -/
def Obligations.ReportFifosKeepOrder : Prop :=
  ∀ (s t : State) (p : Port), s.event ≠ .resetAsserts → step s = .next t →
    ∃ popped pushed : List ReportWord,
      (s.fifo p).words ++ pushed = popped ++ (t.fifo p).words ∧ popped.length + pushed.length ≤ 1 ∧
      (popped ≠ [] → ∃ i, s.event = .coreEdge i) ∧
      (pushed ≠ [] → ∃ i, s.event = .portEdge p i ∧ i.valid = true ∧ pushed = [i.data])

/-- 44_cdc_ingress R140, R142, R150: `p_ready` is 1 exactly when the port has left reset and its write side sees room, so it is 0 when the
FIFO is full. An edge of the port's clock pushes the word exactly when `p_valid` and `p_ready` are 1; a word not taken waits; the write
side may learn of freed entries, and a domain in reset may leave it (70_reset_and_hazards R168; log 9); nothing but the port changes.
A word pushed has waited no core cycle yet. The fields `ages`, `lastDelay`, `unfreed` and `offer` are the model's (log 5, log 8). -/
def Obligations.PortEdgePushesWhenValidAndReady : Prop :=
  (∀ (s : State) (p : Port),
    s.ready p = true ↔ (s.fifo p).live = true ∧ (s.fifo p).words.length + (s.fifo p).unfreed < s.params.rptDepth) ∧
  ∀ (s : State) (p : Port) (i : PortInputs),
    s.resetLine = .released → s.event = .portEdge p i → s.keepsHandshake p i →
      (s.params.rptDepth ≤ (s.fifo p).words.length → s.ready p = false) ∧
      ∃ t, step s = .next t ∧ t = s.advance.setFifo p (t.fifo p) ∧
        (t.fifo p).visible = (s.fifo p).visible ∧ (t.fifo p).unfreed = (s.fifo p).unfreed - i.freed ∧
        (t.fifo p).lastDelay = (s.fifo p).lastDelay ∧
        (t.fifo p).live = ((s.fifo p).live || i.leaveReset) ∧
        if i.valid = true ∧ s.ready p = true then
          (t.fifo p).words = (s.fifo p).words ++ [i.data] ∧ (t.fifo p).ages = (s.fifo p).ages ++ [0] ∧ (t.fifo p).offer = none
        else
          (t.fifo p).words = (s.fifo p).words ∧ (t.fifo p).ages = (s.fifo p).ages ∧
          (t.fifo p).offer = if i.valid = true then some i.data else none

/-- 44_cdc_ingress R149: a producer that drops `p_valid` or changes `p_data` while its word waits is refused. That the model remembers the waiting word is log 8. -/
def Obligations.BrokenHandshakeIsRefused : Prop :=
  ∀ (s : State) (p : Port) (i : PortInputs) (w : ReportWord),
    s.resetLine = .released → s.event = .portEdge p i → (s.fifo p).offer = some w → (i.valid = false ∨ i.data ≠ w) →
      step s = .refused (.producerProtocol p)

/-- 44_cdc_ingress R141, R142, R148 and 60_exceptions R166: the pointers cross only at edges of the receiving clock. At an edge of `clk` of
a running core every word that has not crossed has waited one core cycle more, and the oldest of them cross, as many as the edge says
or as may: the delay of each is the same as or longer than that of the port's word before it, which `lastDelay` keeps from one edge to
the next (`ReportFifo.Crosses`). That moves no word: a word leaves only by a pop. In a step that is no edge of `clk` and no assertion of
`rst_n` the state of that domain is held, and in a step that is no edge of a port's clock and no such assertion the port's write side
and `p_ready` are held. The fields `ages`, `lastDelay` and `unfreed` are the model's choice (log 5). -/
def Obligations.CrossingsMoveOnlyTheViews : Prop :=
  (∀ (s t : State) (i : CoreInputs) (p : Port),
    s.running → s.event = .coreEdge i → (s.fifo p).ages.length ≤ (s.fifo p).words.length → step s = .next t →
      ∃ taken crossed : Nat, taken ≤ 1 ∧
        { s.fifo p with words := (s.fifo p).words.drop taken, unfreed := (s.fifo p).unfreed + taken }.Crosses (i.shows p)
          (t.fifo p) ∧
        crossed ≤ i.shows p ∧ (s.fifo p).ages.length = crossed + (t.fifo p).ages.length ∧
        (t.fifo p).visible + taken = (s.fifo p).visible + crossed) ∧
  ∀ s t : State, s.event ≠ .resetAsserts → step s = .next t →
    ((∀ i, s.event ≠ .coreEdge i) →
      t.intentL = s.intentL ∧ t.intentR = s.intentR ∧ t.arbLast = s.arbLast ∧ t.qc = s.qc ∧ t.estate = s.estate ∧
      t.idx = s.idx ∧ t.frameBuf = s.frameBuf ∧ t.coreLive = s.coreLive ∧ t.ql.visible = s.ql.visible ∧
      t.qr.visible = s.qr.visible ∧ t.ql.lastDelay = s.ql.lastDelay ∧ t.qr.lastDelay = s.qr.lastDelay ∧
      t.status = s.status ∧ t.txValid = s.txValid ∧ t.delivered = s.delivered) ∧
    ∀ p, (∀ i, s.event ≠ .portEdge p i) →
      (t.fifo p).live = (s.fifo p).live ∧ (t.fifo p).offer = (s.fifo p).offer ∧ t.ready p = s.ready p ∧
      ((∀ i, s.event ≠ .coreEdge i) → t.fifo p = s.fifo p)

/-! ## Reset, status and the invariant -/

/-- 10_state R13, R26: what reset leaves in every register whose reset value the spec gives, and on the status outputs. -/
def Obligations.ResetStateHoldsTheSpecsValues : Prop :=
  State.reset.intentL = { fwd := true, armed := false } ∧ State.reset.intentR = { fwd := true, armed := false } ∧
  State.reset.arbLast = .right ∧ State.reset.ql.words = [] ∧ State.reset.qr.words = [] ∧ State.reset.qc = [] ∧
  State.reset.estate = .idle ∧ State.reset.idx = 0 ∧
  State.reset.status =
    { stLFwd := true, stLArmed := false, stRFwd := true, stRArmed := false, stMixArmed := false, stMixFwd := true,
      stTxFailed := false, stIdle := true }

/-- 70_reset_and_hazards R167, R170, R171 and 60_exceptions R158: the assertion of `rst_n` gives every register and queue its reset value at
once, and until the release nothing changes. The bytes delivered stay delivered (R171), in the model's record of them (log 11), and the
parameters, which the model holds in a field, stay as they are (log 3). That an edge of a port's clock in reset tracks no offer, and so is
never refused, is the model's choice (log 8). -/
def Obligations.AssertedResetHoldsEverything : Prop :=
  (∀ s : State, s.resetLine ≠ .asserted → s.event = .resetAsserts → ∃ t, step s = .next t ∧
    t.intentL = { fwd := true, armed := false } ∧ t.intentR = { fwd := true, armed := false } ∧ t.arbLast = .right ∧
    t.ql.words = [] ∧ t.qr.words = [] ∧ t.qc = [] ∧ t.estate = .idle ∧ t.idx = 0 ∧ t.resetLine = .asserted ∧
    t.ready .left = false ∧ t.ready .right = false ∧ t.txValid = false ∧ t.status = State.reset.status ∧
    t.delivered = s.delivered ∧ t.params = s.params) ∧
  ∀ s : State, s.resetLine = .asserted → s.event ≠ .resetReleases →
    step s = .next { s with script := s.script.tail, tick := s.tick + 1 }

/-- 70_reset_and_hazards R168: the release of `rst_n` takes no domain out of reset; a port or the core leaves reset at an edge of its own clock
that the environment chooses, whether or not its producer already offers a word, and stays out of reset; until then the port is not ready and the core
does nothing. That any edge may be the one is the model's choice (log 9), and so is that no edge of a core in reset counts for a word's
delay (log 5). -/
def Obligations.DomainsLeaveResetAtTheirOwnEdges : Prop :=
  (∀ s : State, s.resetLine = .asserted → s.event = .resetReleases →
    step s = .next { s with resetLine := .released, script := s.script.tail, tick := s.tick + 1 }) ∧
  (∀ (s : State) (p : Port) (i : PortInputs), s.resetLine = .released → s.event = .portEdge p i → s.keepsHandshake p i →
      ∃ t, step s = .next t ∧ (t.fifo p).live = ((s.fifo p).live || i.leaveReset) ∧
        ((s.fifo p).live = false → s.ready p = false ∧ (t.fifo p).words = (s.fifo p).words)) ∧
  ∀ (s : State) (i : CoreInputs), s.resetLine = .released → s.event = .coreEdge i → s.coreLive = false →
    step s = .next { s with coreLive := i.leaveReset, script := s.script.tail, tick := s.tick + 1 }

/-- 70_reset_and_hazards R172: before the first assertion of `rst_n` every step but that assertion is refused. The value `powerOn` is the model's (log 10). -/
def Obligations.RunsMustStartFromReset : Prop :=
  ∀ s : State, s.resetLine = .powerOn → s.event ≠ .resetAsserts → step s = .refused .stateBeforeReset

/-- 10_state R26 with 42_arbitration_resolver R102: the eight status outputs, from the registers. -/
def Obligations.StatusOutputsShowTheRegisters : Prop :=
  ∀ s : State,
    s.status.stLFwd = s.intentL.fwd ∧ s.status.stLArmed = s.intentL.armed ∧
    s.status.stRFwd = s.intentR.fwd ∧ s.status.stRArmed = s.intentR.armed ∧
    s.status.stMixArmed = (s.intentL.armed || s.intentR.armed) ∧
    s.status.stMixFwd =
      (if s.intentL.armed = s.intentR.armed then !s.intentL.armed || s.intentL.fwd || s.intentR.fwd
       else if s.intentL.armed then s.intentL.fwd else s.intentR.fwd) ∧
    (s.status.stTxFailed = true ↔ s.estate = .failed) ∧
    (s.status.stIdle = true ↔ s.ql.visible = 0 ∧ s.qr.visible = 0 ∧ s.qc = [] ∧ s.estate ≠ .send)

/-- 70_reset_and_hazards R184: in a quiescent block every event but a producer's offer and the assertion of `rst_n` changes no register and no queue. A finished
run (quiescent, every producer's sequence pushed) stays finished with the same observation, until a reset. `State.quiescent` and
`State.finished` are the model's reading of R184 (log 26, log 27). -/
def Obligations.QuiescentBlockStaysAsItIs : Prop :=
  (∀ s : State, s.quiescent = true → s.resetLine ≠ .powerOn → s.event ≠ .resetAsserts →
    (∀ p i, s.event = .portEdge p i → i.valid = false) →
      ∃ t, step s = .next t ∧ t.quiescent = true ∧ t.intentL = s.intentL ∧ t.intentR = s.intentR ∧ t.arbLast = s.arbLast ∧
        t.ql.words = s.ql.words ∧ t.qr.words = s.qr.words ∧ t.qc = s.qc ∧ t.estate = s.estate ∧ t.idx = s.idx ∧
        t.frameBuf = s.frameBuf ∧ t.delivered = s.delivered) ∧
  ∀ s : State, s.finished = true → s.resetLine ≠ .powerOn → s.script ≠ [] → s.event ≠ .resetAsserts →
    ∃ t, step s = .next t ∧ t.finished = true ∧
      t.observation = { bytes := s.delivered, intentL := s.intentL, intentR := s.intentR, estate := s.estate }

/-- 10_state R25, R13: no value of the configuration changes while the block runs, nor at a reset. That the parameters stand in a field
of State is the model's choice (log 3). -/
def Obligations.NoStepChangesTheParameters : Prop :=
  ∀ s t : State, step s = .next t → t.params = s.params

/-- The invariant holds right after reset. -/
def Obligations.InvariantHoldsAtReset : Prop := Inv State.reset

/-- 10_state R20, R21, 42_arbitration_resolver R105, 44_cdc_ingress R142, 70_reset_and_hazards R167, R168: every step keeps the invariant, from every state that has it. -/
def Obligations.EveryStepKeepsTheInvariant : Prop :=
  ∀ s t : State, Inv s → step s = .next t → Inv t

/-! ## The axis mapper, outside the block -/

/-- 41_axis_mapper_reference R82, R86: a degenerate range gives the rounded midpoint of the target range, whatever the sample; a reversed one
gives no value. -/
def Obligations.MapOfDegenerateAndReversedRanges : Prop :=
  (∀ (value : Nat) (k : Calibration), k.smin = k.smax →
    ∃ y, axisMap value k = some y ∧ (y.toNat : Int) = min 65535 (max 0 ((k.tmin + k.tmax + 1) / 2))) ∧
  ∀ (value : Nat) (k : Calibration), k.smax < k.smin → axisMap value k = none

/-- 41_axis_mapper_reference R88 (a), with a target range inside 0 to 65535 (R85): the result lies in the target range for every sample. -/
def Obligations.MapStaysInTheTargetRange : Prop :=
  ∀ (value : Nat) (k : Calibration), k.smin < k.smax → 0 ≤ k.tmin → k.tmin ≤ k.tmax → k.tmax ≤ 65535 →
    ∃ y, axisMap value k = some y ∧ k.tmin ≤ y.toNat ∧ (y.toNat : Int) ≤ k.tmax

/-- 41_axis_mapper_reference R88 (b), (c): mirroring the sample is inverting, and the identity calibration gives a 16-bit sample inside its range back. -/
def Obligations.MapInvertsByMirroringAndKeepsTheIdentity : Prop :=
  (∀ (v v' : Nat) (k : Calibration), k.smin ≤ v → (v : Int) ≤ k.smax → (v' : Int) = k.smin + k.smax - v →
    axisMap v { k with invert := true } = axisMap v' { k with invert := false }) ∧
  ∀ (v : Nat) (lo hi : Int), lo < hi → lo ≤ v → (v : Int) ≤ hi → v ≤ 65535 →
    axisMap v ⟨lo, hi, lo, hi, false⟩ = some (BitVec.ofNat 16 v)
end

