-- ==== Sys2Proof/Laws/State.lean ====
section
/-! SUPPORT. One lemma per field per update of the state, so that no later proof unfolds a record update. -/

namespace Sys2Proof.Machine

variable (s : State)

@[simp] theorem State.setIntent_arbLast (p : Port) (x : Intent) : (s.setIntent p x).arbLast = s.arbLast := by cases p <;> rfl
@[simp] theorem State.setIntent_ql (p : Port) (x : Intent) : (s.setIntent p x).ql = s.ql := by cases p <;> rfl
@[simp] theorem State.setIntent_qr (p : Port) (x : Intent) : (s.setIntent p x).qr = s.qr := by cases p <;> rfl
@[simp] theorem State.setIntent_qc (p : Port) (x : Intent) : (s.setIntent p x).qc = s.qc := by cases p <;> rfl
@[simp] theorem State.setIntent_estate (p : Port) (x : Intent) : (s.setIntent p x).estate = s.estate := by cases p <;> rfl
@[simp] theorem State.setIntent_idx (p : Port) (x : Intent) : (s.setIntent p x).idx = s.idx := by cases p <;> rfl
@[simp] theorem State.setIntent_frameBuf (p : Port) (x : Intent) : (s.setIntent p x).frameBuf = s.frameBuf := by cases p <;> rfl
@[simp] theorem State.setIntent_resetLine (p : Port) (x : Intent) : (s.setIntent p x).resetLine = s.resetLine := by cases p <;> rfl
@[simp] theorem State.setIntent_coreLive (p : Port) (x : Intent) : (s.setIntent p x).coreLive = s.coreLive := by cases p <;> rfl
@[simp] theorem State.setIntent_params (p : Port) (x : Intent) : (s.setIntent p x).params = s.params := by cases p <;> rfl
@[simp] theorem State.setIntent_script (p : Port) (x : Intent) : (s.setIntent p x).script = s.script := by cases p <;> rfl
@[simp] theorem State.setIntent_tick (p : Port) (x : Intent) : (s.setIntent p x).tick = s.tick := by cases p <;> rfl
@[simp] theorem State.setIntent_delivered (p : Port) (x : Intent) : (s.setIntent p x).delivered = s.delivered := by cases p <;> rfl

@[simp] theorem State.setFifo_intentL (p : Port) (f : ReportFifo) : (s.setFifo p f).intentL = s.intentL := by cases p <;> rfl
@[simp] theorem State.setFifo_intentR (p : Port) (f : ReportFifo) : (s.setFifo p f).intentR = s.intentR := by cases p <;> rfl
@[simp] theorem State.setFifo_arbLast (p : Port) (f : ReportFifo) : (s.setFifo p f).arbLast = s.arbLast := by cases p <;> rfl
@[simp] theorem State.setFifo_qc (p : Port) (f : ReportFifo) : (s.setFifo p f).qc = s.qc := by cases p <;> rfl
@[simp] theorem State.setFifo_estate (p : Port) (f : ReportFifo) : (s.setFifo p f).estate = s.estate := by cases p <;> rfl
@[simp] theorem State.setFifo_idx (p : Port) (f : ReportFifo) : (s.setFifo p f).idx = s.idx := by cases p <;> rfl
@[simp] theorem State.setFifo_frameBuf (p : Port) (f : ReportFifo) : (s.setFifo p f).frameBuf = s.frameBuf := by cases p <;> rfl
@[simp] theorem State.setFifo_resetLine (p : Port) (f : ReportFifo) : (s.setFifo p f).resetLine = s.resetLine := by cases p <;> rfl
@[simp] theorem State.setFifo_coreLive (p : Port) (f : ReportFifo) : (s.setFifo p f).coreLive = s.coreLive := by cases p <;> rfl
@[simp] theorem State.setFifo_params (p : Port) (f : ReportFifo) : (s.setFifo p f).params = s.params := by cases p <;> rfl
@[simp] theorem State.setFifo_script (p : Port) (f : ReportFifo) : (s.setFifo p f).script = s.script := by cases p <;> rfl
@[simp] theorem State.setFifo_tick (p : Port) (f : ReportFifo) : (s.setFifo p f).tick = s.tick := by cases p <;> rfl
@[simp] theorem State.setFifo_delivered (p : Port) (f : ReportFifo) : (s.setFifo p f).delivered = s.delivered := by cases p <;> rfl

@[simp] theorem State.pushCommand_intentL (c : CommandWord) : (s.pushCommand c).intentL = s.intentL := (rfl)
@[simp] theorem State.pushCommand_intentR (c : CommandWord) : (s.pushCommand c).intentR = s.intentR := (rfl)
@[simp] theorem State.pushCommand_arbLast (c : CommandWord) : (s.pushCommand c).arbLast = s.arbLast := (rfl)
@[simp] theorem State.pushCommand_ql (c : CommandWord) : (s.pushCommand c).ql = s.ql := (rfl)
@[simp] theorem State.pushCommand_qr (c : CommandWord) : (s.pushCommand c).qr = s.qr := (rfl)
@[simp] theorem State.pushCommand_qc (c : CommandWord) : (s.pushCommand c).qc = s.qc ++ [c] := (rfl)
@[simp] theorem State.pushCommand_estate (c : CommandWord) : (s.pushCommand c).estate = s.estate := (rfl)
@[simp] theorem State.pushCommand_idx (c : CommandWord) : (s.pushCommand c).idx = s.idx := (rfl)
@[simp] theorem State.pushCommand_frameBuf (c : CommandWord) : (s.pushCommand c).frameBuf = s.frameBuf := (rfl)
@[simp] theorem State.pushCommand_resetLine (c : CommandWord) : (s.pushCommand c).resetLine = s.resetLine := (rfl)
@[simp] theorem State.pushCommand_coreLive (c : CommandWord) : (s.pushCommand c).coreLive = s.coreLive := (rfl)
@[simp] theorem State.pushCommand_params (c : CommandWord) : (s.pushCommand c).params = s.params := (rfl)
@[simp] theorem State.pushCommand_script (c : CommandWord) : (s.pushCommand c).script = s.script := (rfl)
@[simp] theorem State.pushCommand_tick (c : CommandWord) : (s.pushCommand c).tick = s.tick := (rfl)
@[simp] theorem State.pushCommand_delivered (c : CommandWord) : (s.pushCommand c).delivered = s.delivered := (rfl)

@[simp] theorem State.popCommand_intentL : (s.popCommand).intentL = s.intentL := (rfl)
@[simp] theorem State.popCommand_intentR : (s.popCommand).intentR = s.intentR := (rfl)
@[simp] theorem State.popCommand_arbLast : (s.popCommand).arbLast = s.arbLast := (rfl)
@[simp] theorem State.popCommand_ql : (s.popCommand).ql = s.ql := (rfl)
@[simp] theorem State.popCommand_qr : (s.popCommand).qr = s.qr := (rfl)
@[simp] theorem State.popCommand_qc : (s.popCommand).qc = s.qc.tail := (rfl)
@[simp] theorem State.popCommand_estate : (s.popCommand).estate = s.estate := (rfl)
@[simp] theorem State.popCommand_idx : (s.popCommand).idx = s.idx := (rfl)
@[simp] theorem State.popCommand_frameBuf : (s.popCommand).frameBuf = s.frameBuf := (rfl)
@[simp] theorem State.popCommand_resetLine : (s.popCommand).resetLine = s.resetLine := (rfl)
@[simp] theorem State.popCommand_coreLive : (s.popCommand).coreLive = s.coreLive := (rfl)
@[simp] theorem State.popCommand_params : (s.popCommand).params = s.params := (rfl)
@[simp] theorem State.popCommand_script : (s.popCommand).script = s.script := (rfl)
@[simp] theorem State.popCommand_tick : (s.popCommand).tick = s.tick := (rfl)
@[simp] theorem State.popCommand_delivered : (s.popCommand).delivered = s.delivered := (rfl)

@[simp] theorem State.popReport_intentL (p : Port) : (s.popReport p).intentL = s.intentL := by cases p <;> rfl
@[simp] theorem State.popReport_intentR (p : Port) : (s.popReport p).intentR = s.intentR := by cases p <;> rfl
@[simp] theorem State.popReport_arbLast (p : Port) : (s.popReport p).arbLast = p := by cases p <;> rfl
@[simp] theorem State.popReport_qc (p : Port) : (s.popReport p).qc = s.qc := by cases p <;> rfl
@[simp] theorem State.popReport_estate (p : Port) : (s.popReport p).estate = s.estate := by cases p <;> rfl
@[simp] theorem State.popReport_idx (p : Port) : (s.popReport p).idx = s.idx := by cases p <;> rfl
@[simp] theorem State.popReport_frameBuf (p : Port) : (s.popReport p).frameBuf = s.frameBuf := by cases p <;> rfl
@[simp] theorem State.popReport_resetLine (p : Port) : (s.popReport p).resetLine = s.resetLine := by cases p <;> rfl
@[simp] theorem State.popReport_coreLive (p : Port) : (s.popReport p).coreLive = s.coreLive := by cases p <;> rfl
@[simp] theorem State.popReport_params (p : Port) : (s.popReport p).params = s.params := by cases p <;> rfl
@[simp] theorem State.popReport_script (p : Port) : (s.popReport p).script = s.script := by cases p <;> rfl
@[simp] theorem State.popReport_tick (p : Port) : (s.popReport p).tick = s.tick := by cases p <;> rfl
@[simp] theorem State.popReport_delivered (p : Port) : (s.popReport p).delivered = s.delivered := by cases p <;> rfl

@[simp] theorem State.raiseTxFail_intentL : (s.raiseTxFail).intentL = s.intentL := (rfl)
@[simp] theorem State.raiseTxFail_intentR : (s.raiseTxFail).intentR = s.intentR := (rfl)
@[simp] theorem State.raiseTxFail_arbLast : (s.raiseTxFail).arbLast = s.arbLast := (rfl)
@[simp] theorem State.raiseTxFail_ql : (s.raiseTxFail).ql = s.ql := (rfl)
@[simp] theorem State.raiseTxFail_qr : (s.raiseTxFail).qr = s.qr := (rfl)
@[simp] theorem State.raiseTxFail_qc : (s.raiseTxFail).qc = s.qc := (rfl)
@[simp] theorem State.raiseTxFail_estate : (s.raiseTxFail).estate = .failed := (rfl)
@[simp] theorem State.raiseTxFail_idx : (s.raiseTxFail).idx = s.idx := (rfl)
@[simp] theorem State.raiseTxFail_frameBuf : (s.raiseTxFail).frameBuf = s.frameBuf := (rfl)
@[simp] theorem State.raiseTxFail_resetLine : (s.raiseTxFail).resetLine = s.resetLine := (rfl)
@[simp] theorem State.raiseTxFail_coreLive : (s.raiseTxFail).coreLive = s.coreLive := (rfl)
@[simp] theorem State.raiseTxFail_params : (s.raiseTxFail).params = s.params := (rfl)
@[simp] theorem State.raiseTxFail_script : (s.raiseTxFail).script = s.script := (rfl)
@[simp] theorem State.raiseTxFail_tick : (s.raiseTxFail).tick = s.tick := (rfl)
@[simp] theorem State.raiseTxFail_delivered : (s.raiseTxFail).delivered = s.delivered := (rfl)

@[simp] theorem State.showWords_intentL (i : CoreInputs) : (s.showWords i).intentL = s.intentL := (rfl)
@[simp] theorem State.showWords_intentR (i : CoreInputs) : (s.showWords i).intentR = s.intentR := (rfl)
@[simp] theorem State.showWords_arbLast (i : CoreInputs) : (s.showWords i).arbLast = s.arbLast := (rfl)
@[simp] theorem State.showWords_ql (i : CoreInputs) : (s.showWords i).ql = fifoShow (i.shows .left) s.ql := (rfl)
@[simp] theorem State.showWords_qr (i : CoreInputs) : (s.showWords i).qr = fifoShow (i.shows .right) s.qr := (rfl)
@[simp] theorem State.showWords_qc (i : CoreInputs) : (s.showWords i).qc = s.qc := (rfl)
@[simp] theorem State.showWords_estate (i : CoreInputs) : (s.showWords i).estate = s.estate := (rfl)
@[simp] theorem State.showWords_idx (i : CoreInputs) : (s.showWords i).idx = s.idx := (rfl)
@[simp] theorem State.showWords_frameBuf (i : CoreInputs) : (s.showWords i).frameBuf = s.frameBuf := (rfl)
@[simp] theorem State.showWords_resetLine (i : CoreInputs) : (s.showWords i).resetLine = s.resetLine := (rfl)
@[simp] theorem State.showWords_coreLive (i : CoreInputs) : (s.showWords i).coreLive = s.coreLive := (rfl)
@[simp] theorem State.showWords_params (i : CoreInputs) : (s.showWords i).params = s.params := (rfl)
@[simp] theorem State.showWords_script (i : CoreInputs) : (s.showWords i).script = s.script := (rfl)
@[simp] theorem State.showWords_tick (i : CoreInputs) : (s.showWords i).tick = s.tick := (rfl)
@[simp] theorem State.showWords_delivered (i : CoreInputs) : (s.showWords i).delivered = s.delivered := (rfl)

@[simp] theorem State.releaseReset_intentL : (s.releaseReset).intentL = s.intentL := (rfl)
@[simp] theorem State.releaseReset_intentR : (s.releaseReset).intentR = s.intentR := (rfl)
@[simp] theorem State.releaseReset_arbLast : (s.releaseReset).arbLast = s.arbLast := (rfl)
@[simp] theorem State.releaseReset_ql : (s.releaseReset).ql = s.ql := (rfl)
@[simp] theorem State.releaseReset_qr : (s.releaseReset).qr = s.qr := (rfl)
@[simp] theorem State.releaseReset_qc : (s.releaseReset).qc = s.qc := (rfl)
@[simp] theorem State.releaseReset_estate : (s.releaseReset).estate = s.estate := (rfl)
@[simp] theorem State.releaseReset_idx : (s.releaseReset).idx = s.idx := (rfl)
@[simp] theorem State.releaseReset_frameBuf : (s.releaseReset).frameBuf = s.frameBuf := (rfl)
@[simp] theorem State.releaseReset_resetLine : (s.releaseReset).resetLine = .released := (rfl)
@[simp] theorem State.releaseReset_coreLive : (s.releaseReset).coreLive = s.coreLive := (rfl)
@[simp] theorem State.releaseReset_params : (s.releaseReset).params = s.params := (rfl)
@[simp] theorem State.releaseReset_script : (s.releaseReset).script = s.script := (rfl)
@[simp] theorem State.releaseReset_tick : (s.releaseReset).tick = s.tick := (rfl)
@[simp] theorem State.releaseReset_delivered : (s.releaseReset).delivered = s.delivered := (rfl)

@[simp] theorem State.startCore_intentL : (s.startCore).intentL = s.intentL := (rfl)
@[simp] theorem State.startCore_intentR : (s.startCore).intentR = s.intentR := (rfl)
@[simp] theorem State.startCore_arbLast : (s.startCore).arbLast = s.arbLast := (rfl)
@[simp] theorem State.startCore_ql : (s.startCore).ql = s.ql := (rfl)
@[simp] theorem State.startCore_qr : (s.startCore).qr = s.qr := (rfl)
@[simp] theorem State.startCore_qc : (s.startCore).qc = s.qc := (rfl)
@[simp] theorem State.startCore_estate : (s.startCore).estate = s.estate := (rfl)
@[simp] theorem State.startCore_idx : (s.startCore).idx = s.idx := (rfl)
@[simp] theorem State.startCore_frameBuf : (s.startCore).frameBuf = s.frameBuf := (rfl)
@[simp] theorem State.startCore_resetLine : (s.startCore).resetLine = s.resetLine := (rfl)
@[simp] theorem State.startCore_coreLive : (s.startCore).coreLive = true := (rfl)
@[simp] theorem State.startCore_params : (s.startCore).params = s.params := (rfl)
@[simp] theorem State.startCore_script : (s.startCore).script = s.script := (rfl)
@[simp] theorem State.startCore_tick : (s.startCore).tick = s.tick := (rfl)
@[simp] theorem State.startCore_delivered : (s.startCore).delivered = s.delivered := (rfl)

@[simp] theorem State.loadFrame_intentL (c : CommandWord) : (s.loadFrame c).intentL = s.intentL := (rfl)
@[simp] theorem State.loadFrame_intentR (c : CommandWord) : (s.loadFrame c).intentR = s.intentR := (rfl)
@[simp] theorem State.loadFrame_arbLast (c : CommandWord) : (s.loadFrame c).arbLast = s.arbLast := (rfl)
@[simp] theorem State.loadFrame_ql (c : CommandWord) : (s.loadFrame c).ql = s.ql := (rfl)
@[simp] theorem State.loadFrame_qr (c : CommandWord) : (s.loadFrame c).qr = s.qr := (rfl)
@[simp] theorem State.loadFrame_qc (c : CommandWord) : (s.loadFrame c).qc = s.qc := (rfl)
@[simp] theorem State.loadFrame_estate (c : CommandWord) : (s.loadFrame c).estate = .send := (rfl)
@[simp] theorem State.loadFrame_idx (c : CommandWord) : (s.loadFrame c).idx = 0 := (rfl)
@[simp] theorem State.loadFrame_frameBuf (c : CommandWord) : (s.loadFrame c).frameBuf = encodeFrame s.params (expand s.params c) := (rfl)
@[simp] theorem State.loadFrame_resetLine (c : CommandWord) : (s.loadFrame c).resetLine = s.resetLine := (rfl)
@[simp] theorem State.loadFrame_coreLive (c : CommandWord) : (s.loadFrame c).coreLive = s.coreLive := (rfl)
@[simp] theorem State.loadFrame_params (c : CommandWord) : (s.loadFrame c).params = s.params := (rfl)
@[simp] theorem State.loadFrame_script (c : CommandWord) : (s.loadFrame c).script = s.script := (rfl)
@[simp] theorem State.loadFrame_tick (c : CommandWord) : (s.loadFrame c).tick = s.tick := (rfl)
@[simp] theorem State.loadFrame_delivered (c : CommandWord) : (s.loadFrame c).delivered = s.delivered := (rfl)

@[simp] theorem State.advance_intentL : (s.advance).intentL = s.intentL := (rfl)
@[simp] theorem State.advance_intentR : (s.advance).intentR = s.intentR := (rfl)
@[simp] theorem State.advance_arbLast : (s.advance).arbLast = s.arbLast := (rfl)
@[simp] theorem State.advance_ql : (s.advance).ql = s.ql := (rfl)
@[simp] theorem State.advance_qr : (s.advance).qr = s.qr := (rfl)
@[simp] theorem State.advance_qc : (s.advance).qc = s.qc := (rfl)
@[simp] theorem State.advance_estate : (s.advance).estate = s.estate := (rfl)
@[simp] theorem State.advance_idx : (s.advance).idx = s.idx := (rfl)
@[simp] theorem State.advance_frameBuf : (s.advance).frameBuf = s.frameBuf := (rfl)
@[simp] theorem State.advance_resetLine : (s.advance).resetLine = s.resetLine := (rfl)
@[simp] theorem State.advance_coreLive : (s.advance).coreLive = s.coreLive := (rfl)
@[simp] theorem State.advance_params : (s.advance).params = s.params := (rfl)
@[simp] theorem State.advance_script : (s.advance).script = s.script.tail := (rfl)
@[simp] theorem State.advance_tick : (s.advance).tick = s.tick + 1 := (rfl)
@[simp] theorem State.advance_delivered : (s.advance).delivered = s.delivered := (rfl)

@[simp] theorem State.assertReset_intentL : (s.assertReset).intentL = Intent.reset := (rfl)
@[simp] theorem State.assertReset_intentR : (s.assertReset).intentR = Intent.reset := (rfl)
@[simp] theorem State.assertReset_arbLast : (s.assertReset).arbLast = .right := (rfl)
@[simp] theorem State.assertReset_ql : (s.assertReset).ql = ReportFifo.empty false := (rfl)
@[simp] theorem State.assertReset_qr : (s.assertReset).qr = ReportFifo.empty false := (rfl)
@[simp] theorem State.assertReset_qc : (s.assertReset).qc = [] := (rfl)
@[simp] theorem State.assertReset_estate : (s.assertReset).estate = .idle := (rfl)
@[simp] theorem State.assertReset_idx : (s.assertReset).idx = 0 := (rfl)
@[simp] theorem State.assertReset_frameBuf : (s.assertReset).frameBuf = Config.resetFrame s.tick := (rfl)
@[simp] theorem State.assertReset_resetLine : (s.assertReset).resetLine = .asserted := (rfl)
@[simp] theorem State.assertReset_coreLive : (s.assertReset).coreLive = false := (rfl)
@[simp] theorem State.assertReset_params : (s.assertReset).params = s.params := (rfl)
@[simp] theorem State.assertReset_script : (s.assertReset).script = s.script := (rfl)
@[simp] theorem State.assertReset_tick : (s.assertReset).tick = s.tick := (rfl)
@[simp] theorem State.assertReset_delivered : (s.assertReset).delivered = s.delivered := (rfl)

@[simp] theorem Port.other_other (p : Port) : p.other.other = p := by cases p <;> rfl

@[simp] theorem Port.other_ne (p : Port) : p.other ≠ p := by cases p <;> decide

@[simp] theorem Port.ne_other (p : Port) : p ≠ p.other := by cases p <;> decide

@[simp] theorem State.intent_left : s.intent .left = s.intentL := rfl
@[simp] theorem State.intent_right : s.intent .right = s.intentR := rfl
@[simp] theorem State.fifo_left : s.fifo .left = s.ql := rfl
@[simp] theorem State.fifo_right : s.fifo .right = s.qr := rfl

@[simp] theorem State.setIntent_intent (p : Port) (x : Intent) : (s.setIntent p x).intent p = x := by cases p <;> rfl

@[simp] theorem State.setIntent_intent_other (p : Port) (x : Intent) :
    (s.setIntent p x).intent p.other = s.intent p.other := by cases p <;> rfl

@[simp] theorem State.setIntent_fifo (p q : Port) (x : Intent) : (s.setIntent p x).fifo q = s.fifo q := by
  cases p <;> cases q <;> rfl

@[simp] theorem State.setFifo_fifo (p : Port) (f : ReportFifo) : (s.setFifo p f).fifo p = f := by cases p <;> rfl

@[simp] theorem State.setFifo_fifo_other (p : Port) (f : ReportFifo) :
    (s.setFifo p f).fifo p.other = s.fifo p.other := by cases p <;> rfl

@[simp] theorem State.setFifo_intent (p q : Port) (f : ReportFifo) : (s.setFifo p f).intent q = s.intent q := by
  cases p <;> cases q <;> rfl

@[simp] theorem State.popReport_fifo (p : Port) : (s.popReport p).fifo p = fifoPop (s.fifo p) := by cases p <;> rfl

@[simp] theorem State.popReport_fifo_other (p : Port) : (s.popReport p).fifo p.other = s.fifo p.other := by
  cases p <;> rfl

@[simp] theorem State.showWords_fifo (p : Port) (i : CoreInputs) : (s.showWords i).fifo p = fifoShow (i.shows p) (s.fifo p) := by
  cases p <;> rfl

@[simp] theorem State.showWords_intent (p : Port) (i : CoreInputs) : (s.showWords i).intent p = s.intent p := by
  cases p <;> rfl

@[simp] theorem State.popReport_intent (p q : Port) : (s.popReport p).intent q = s.intent q := by
  cases p <;> cases q <;> rfl

/-- A state is its fields. -/
theorem State.setIntent_self (p : Port) : s.setIntent p (s.intent p) = s := by cases p <;> rfl

end Sys2Proof.Machine
end

