-- ==== Sys2Proof/Laws/Ops.lean ====
section
/-! SUPPORT. One lemma for each shared operation that says once everything it can do. -/

namespace Sys2Proof.Machine

/-! ## The report FIFOs -/

section
variable (n : Nat) (f : ReportFifo) (w : ReportWord)
@[simp] theorem fifoPush_words : (fifoPush f w).words = f.words ++ [w] := rfl
@[simp] theorem fifoPush_ages : (fifoPush f w).ages = f.ages ++ [0] := rfl
@[simp] theorem fifoPop_words : (fifoPop f).words = f.words.tail := rfl
@[simp] theorem fifoPop_ages : (fifoPop f).ages = f.ages := rfl
@[simp] theorem fifoPop_lastDelay : (fifoPop f).lastDelay = f.lastDelay := rfl
@[simp] theorem fifoPop_unfreed : (fifoPop f).unfreed = f.unfreed + 1 := rfl
@[simp] theorem fifoPop_offer : (fifoPop f).offer = f.offer := rfl
@[simp] theorem fifoPop_live : (fifoPop f).live = f.live := rfl
@[simp] theorem fifoShow_words : (fifoShow n f).words = f.words := rfl
@[simp] theorem fifoShow_unfreed : (fifoShow n f).unfreed = f.unfreed := rfl
@[simp] theorem fifoShow_offer : (fifoShow n f).offer = f.offer := rfl
@[simp] theorem fifoShow_live : (fifoShow n f).live = f.live := rfl
@[simp] theorem fifoFree_words : (fifoFree n f).words = f.words := rfl
@[simp] theorem fifoFree_ages : (fifoFree n f).ages = f.ages := rfl
@[simp] theorem fifoFree_lastDelay : (fifoFree n f).lastDelay = f.lastDelay := rfl
@[simp] theorem fifoFree_unfreed : (fifoFree n f).unfreed = f.unfreed - n := rfl
@[simp] theorem fifoFree_offer : (fifoFree n f).offer = f.offer := rfl
@[simp] theorem fifoFree_live : (fifoFree n f).live = f.live := rfl

/-- A push and its word's age leave what shows. -/
@[simp] theorem fifoPush_visible : (fifoPush f w).visible = f.visible := by
  simp only [ReportFifo.visible, fifoPush_words, fifoPush_ages, List.length_append, List.length_singleton]; omega

/-- A pop hides the head. -/
@[simp] theorem fifoPop_visible : (fifoPop f).visible = f.visible - 1 := by
  simp only [ReportFifo.visible, fifoPop_words, fifoPop_ages, List.length_tail]; omega

@[simp] theorem fifoFree_visible : (fifoFree n f).visible = f.visible := rfl
end

/-- Which words cross: the oldest, at most `n`, with delays that never fall, and fewer than `n` only where none waits or the next
one's would be shorter. -/
theorem crossing_spec (n last : Nat) (ages : List Nat) :
    ∃ rest, ages = crossing n last ages ++ rest ∧ (crossing n last ages).length ≤ n ∧
      (last :: crossing n last ages).Pairwise (· ≤ ·) ∧
      ((crossing n last ages).length < n → ∀ a ∈ rest.head?, a < (crossing n last ages).getLastD last) := by
  induction n generalizing last ages with
  | zero => exact ⟨ages, by simp [crossing]⟩
  | succ n ih =>
    cases ages with
    | nil => exact ⟨[], by simp [crossing]⟩
    | cons a ages =>
      by_cases h : last ≤ a
      · obtain ⟨rest, h1, h2, h3, h4⟩ := ih a ages
        simp only [crossing, if_pos h]
        refine ⟨rest, by rw [List.cons_append, ← h1], by simpa using h2, ?_, fun hn => ?_⟩
        · refine List.pairwise_cons.2 ⟨fun b hb => ?_, h3⟩
          rcases List.mem_cons.1 hb with rfl | hb
          · exact h
          · exact Nat.le_trans h ((List.pairwise_cons.1 h3).1 b hb)
        · rw [List.getLastD_cons]
          exact h4 (by simpa using hn)
      · simp only [crossing, if_neg h]
        exact ⟨a :: ages, by simp; omega⟩

/-- All that one core cycle of the crossing does to a FIFO. -/
theorem fifoShow_crosses (n : Nat) (f : ReportFifo) : f.Crosses n (fifoShow n f) := by
  obtain ⟨rest, h1, h2, h3, h4⟩ := crossing_spec n f.lastDelay (f.ages.map (· + 1))
  have e : (fifoShow n f).ages = rest := (congrArg (List.drop _) h1).trans List.drop_left
  exact ⟨crossing n f.lastDelay (f.ages.map (· + 1)), by rw [e]; exact h1, h2, h3, fun h => by rw [e]; exact h4 h, rfl, rfl, rfl,
    rfl, rfl⟩

theorem popped_eq_fifoPop (f : ReportFifo) : f.popped = fifoPop f := rfl

/-- What crosses and what still waits is what waited; so no more words wait than before, and no word that showed is hidden. -/
theorem ReportFifo.Crosses.length {n : Nat} {f f' : ReportFifo} (h : f.Crosses n f') : f'.ages.length ≤ f.ages.length := by
  obtain ⟨delays, h1, -⟩ := h
  have := congrArg List.length h1
  simp at this; omega

theorem ReportFifo.Crosses.visible_le {n : Nat} {f f' : ReportFifo} (h : f.Crosses n f') : f.visible ≤ f'.visible := by
  have h1 := h.length
  obtain ⟨_, -, -, -, -, -, hw, -⟩ := h
  simp only [ReportFifo.visible, hw]; omega

/-- With no crossing the same words show. -/
theorem ReportFifo.Crosses.visible_zero {f f' : ReportFifo} (h : f.Crosses 0 f') : f'.visible = f.visible := by
  obtain ⟨delays, h1, h2, -, -, -, hw, -⟩ := h
  have := congrArg List.length h1
  simp only [ReportFifo.visible, hw]; simp at this; omega

theorem fifoReady_iff (depth : Nat) (f : ReportFifo) :
    fifoReady depth f = true ↔ f.live = true ∧ f.words.length + f.unfreed < depth := by
  simp [fifoReady]

/-- The core-side view shows a word exactly when something shows, and then it is the oldest word. -/
theorem fifoShown_eq_some (f : ReportFifo) (w : ReportWord) :
    fifoShown f = some w ↔ f.visible ≠ 0 ∧ ∃ rest, f.words = w :: rest := by
  unfold fifoShown
  cases hv : f.visible with
  | zero => simp
  | succ n =>
    cases hw : f.words with
    | nil => simp
    | cons a l => simp [eq_comm]

/-- What shows is pushed and not waiting. -/
theorem lt_of_shown {f : ReportFifo} {w : ReportWord} (h : fifoShown f = some w) :
    f.ages.length < f.words.length ∧ ∃ rest, f.words = w :: rest := by
  obtain ⟨hv, hw⟩ := (fifoShown_eq_some f w).1 h
  exact ⟨by simp only [ReportFifo.visible] at hv; omega, hw⟩

theorem fifoPop_inv {depth : Nat} {f : ReportFifo} {w : ReportWord} (h : FifoInv depth f) (hs : fifoShown f = some w) :
    FifoInv depth (fifoPop f) := by
  obtain ⟨hv, rest, hw⟩ := lt_of_shown hs
  have h2 := h.room
  refine ⟨?_, ?_, fun hl => ?_⟩
  · simp only [fifoPop_words, fifoPop_ages, List.length_tail]; omega
  · simp only [fifoPop_words, fifoPop_unfreed, List.length_tail]; omega
  · have := (h.held hl).1; rw [hw] at this; cases this

theorem ReportFifo.Crosses.inv {depth n : Nat} {f f' : ReportFifo} (hc : f.Crosses n f') (h : FifoInv depth f) :
    FifoInv depth f' := by
  have h1 := hc.length
  obtain ⟨delays, ha, -, -, -, hd, hw, hu, -, hl⟩ := hc
  refine ⟨by rw [hw]; exact Nat.le_trans h1 h.waiting_le, by rw [hw, hu]; exact h.room, fun hf => ?_⟩
  obtain ⟨ew, ea, ed, eu⟩ := h.held (hl ▸ hf)
  rw [ea] at ha
  obtain ⟨rfl, e⟩ := List.append_eq_nil_iff.1 ha.symm
  exact ⟨hw.trans ew, e, hd.trans ed, hu.trans eu⟩

theorem fifoShow_inv {depth : Nat} {f : ReportFifo} (n : Nat) (h : FifoInv depth f) : FifoInv depth (fifoShow n f) :=
  (fifoShow_crosses n f).inv h

theorem fifoFree_inv {depth : Nat} {f : ReportFifo} (n : Nat) (h : FifoInv depth f) : FifoInv depth (fifoFree n f) := by
  have h2 := h.room
  refine ⟨h.waiting_le, by simp only [fifoFree]; omega, fun hl => ?_⟩
  obtain ⟨hw, ha, hd, hu⟩ := h.held hl
  exact ⟨hw, ha, hd, by simp [fifoFree, hu]⟩

/-- All that a port's edge does to its FIFO. -/
theorem samplePort_eq (depth : Nat) (f : ReportFifo) (i : PortInputs) :
    samplePort depth f i =
      { words := if i.valid && fifoReady depth f then f.words ++ [i.data] else f.words
        ages := if i.valid && fifoReady depth f then f.ages ++ [0] else f.ages
        lastDelay := f.lastDelay
        unfreed := f.unfreed - i.freed
        offer := if i.valid && !fifoReady depth f then some i.data else none
        live := f.live || i.leaveReset } := by
  unfold samplePort; split <;> rfl

/-- A port's edge leaves what shows. -/
@[simp] theorem samplePort_visible (depth : Nat) (f : ReportFifo) (i : PortInputs) :
    (samplePort depth f i).visible = f.visible := by
  rw [samplePort_eq]
  split
  · exact fifoPush_visible f i.data
  · rfl

theorem samplePort_inv {depth : Nat} {f : ReportFifo} (i : PortInputs) (h : FifoInv depth f) :
    FifoInv depth (samplePort depth f i) := by
  have h1 := h.waiting_le
  have h2 := h.room
  rw [samplePort_eq]
  by_cases hp : (i.valid && fifoReady depth f) = true
  · obtain ⟨hl, hroom⟩ := (fifoReady_iff depth f).1 (by simp at hp; exact hp.2)
    refine ⟨?_, ?_, fun hd => ?_⟩ <;> simp_all <;> omega
  · simp only [hp]
    refine ⟨h1, by simp only; simp; omega, fun hd => ?_⟩
    obtain ⟨hw, ha, hk, hu⟩ := h.held (by simp at hd; exact hd.1)
    simp [hw, ha, hk, hu]

theorem empty_inv {depth : Nat} (live : Bool) : FifoInv depth (ReportFifo.empty live) :=
  ⟨Nat.le_refl _, Nat.zero_le _, fun _ => ⟨rfl, rfl, rfl, rfl⟩⟩

/-! ## The command word -/

/-- Bit `k` of a command word, field by field. -/
theorem commandWord_getLsbD (a f : Bool) (v h : Half) (k : Nat) : (commandWord a f v h).getLsbD k =
    if k < 16 then h.getLsbD k else if k < 32 then v.getLsbD (k - 16)
    else if k = 32 then f else if k = 33 then a else false := by
  have e : (commandWord a f v h).getLsbD k =
      @BitVec.getLsbD (1 + 1 + 16 + 16) (BitVec.ofBool a ++ BitVec.ofBool f ++ v ++ h) k := rfl
  rw [e, BitVec.getLsbD_append, BitVec.getLsbD_append, BitVec.getLsbD_append]
  split
  · rfl
  · have h1 : (k - 16 < 16) = (k < 32) := by simp; omega
    simp only [h1]
    split
    · rfl
    · simp only [Nat.sub_sub]
      by_cases hk : k = 32
      · subst hk; simp
      · by_cases hk : k = 33
        · subst hk; simp
        · have h2 : ¬(k - 32 < 1) := by omega
          have h3 : k - 33 ≠ 0 := by omega
          simp [*]

@[simp] theorem commandArmed_commandWord (a f : Bool) (v h : Half) : commandArmed (commandWord a f v h) = a := by
  simp only [commandArmed, commandWord_getLsbD]; rfl

@[simp] theorem commandFwd_commandWord (a f : Bool) (v h : Half) : commandFwd (commandWord a f v h) = f := by
  simp only [commandFwd, commandWord_getLsbD]; rfl

@[simp] theorem commandV_commandWord (a f : Bool) (v h : Half) : commandV (commandWord a f v h) = v := by
  apply BitVec.eq_of_getLsbD_eq
  intro k hk
  rw [commandV, BitVec.getLsbD_extractLsb', commandWord_getLsbD]
  have h1 : ¬(16 + k < 16) := by omega
  have h2 : 16 + k < 32 := by omega
  simp [hk, h1, h2]

@[simp] theorem commandH_commandWord (a f : Bool) (v h : Half) : commandH (commandWord a f v h) = h := by
  apply BitVec.eq_of_getLsbD_eq
  intro k hk
  rw [commandH, BitVec.getLsbD_extractLsb', commandWord_getLsbD]
  simp [hk]

/-! ## REPORT_STEP -/

/-- All that the push of REPORT_STEP can change is QC. -/
theorem State.offerCommand_eq (s : State) (p : Port) (new other : Intent) (h v : Half) :
    s.offerCommand p new other h v =
      { s with qc := if gate new other = true ∧ s.estate ≠ .failed then
          s.qc ++ [commandWord (mixFor p new other).armed (mixFor p new other).fwd v h] else s.qc } := by
  by_cases hg : gate new other = true ∧ s.estate ≠ .failed <;> simp [State.offerCommand, hg, State.pushCommand]

/-- With the gate open the mix is the own side's, and armed. -/
theorem mixFor_of_gate {p : Port} {new other : Intent} (h : gate new other = true) :
    mixFor p new other = { armed := true, fwd := new.fwd } := by
  simp [gate] at h
  cases p <;> simp [mixFor, mix, h]

/-- All that REPORT_STEP can do: the own side's intent takes its new value, and QC gets one command exactly when the own side
is armed after its events, the other side is not, and the emitter has not failed. -/
theorem reportStep_eq (p : Port) (armt : Bool) (dir : DirRequest) (h v : Half) (s : State) :
    reportStep p armt dir h v s =
      ({ s with qc :=
          if gate (applyEvents (s.intent p) armt dir) (s.intent p.other) = true ∧ s.estate ≠ .failed then
            s.qc ++ [commandWord true (applyEvents (s.intent p) armt dir).fwd v h]
          else s.qc } : State).setIntent p (applyEvents (s.intent p) armt dir) := by
  unfold reportStep
  rw [State.offerCommand_eq]
  by_cases hg : gate (applyEvents (s.intent p) armt dir) (s.intent p.other) = true
  · rw [mixFor_of_gate hg]
  · simp [hg]

/-- Everything a report form can do: RPT.ERR leaves the state, and every other form is REPORT_STEP with some events. -/
theorem exec_cases {i : Instr} {s t : State} (h : exec i s = .next t) :
    (∃ ignored, i = .rptErr i.port ignored ∧ t = s) ∨
      ∃ armt dir hh v, t = reportStep i.port armt dir hh v s := by
  cases i <;> injection h with h <;> subst h
  case rptErr p ignored => exact .inl ⟨ignored, rfl, rfl⟩
  all_goals exact .inr ⟨_, _, _, _, rfl⟩

end Sys2Proof.Machine
end

