-- ==== Sys2Proof/Laws/Frame.lean ====
section
/-! SUPPORT. The small lemmas of EXPAND and ENCODE. -/

namespace Sys2Proof.Machine

/-- Bit `b` of the byte is `f b`. -/
theorem getLsbD_byteOfBits (f : Nat → Bool) (b : Nat) (hb : b < 8) : (byteOfBits f).getLsbD b = f b := by
  have e : (byteOfBits f).getLsbD b = @BitVec.getLsbD (1 + 1 + 1 + 1 + 1 + 1 + 1 + 1)
      (BitVec.ofBool (f 7) ++ BitVec.ofBool (f 6) ++ BitVec.ofBool (f 5) ++ BitVec.ofBool (f 4) ++
        BitVec.ofBool (f 3) ++ BitVec.ofBool (f 2) ++ BitVec.ofBool (f 1) ++ BitVec.ofBool (f 0)) b := rfl
  rw [e]
  clear e
  interval_cases b <;> simp only [BitVec.getLsbD_append, BitVec.getLsbD_ofBool] <;> simp

/-- Two bit functions that agree below 8 give one byte. -/
theorem byteOfBits_congr {f g : Nat → Bool} (h : ∀ b, b < 8 → f b = g b) : byteOfBits f = byteOfBits g := by
  simp [byteOfBits, h]

@[simp] theorem encodeFrame_getElem (c : Params) (ch : ChannelVector) (j : Nat) (hj : j < 25) :
    (encodeFrame c ch)[j] = frameByte c ch j := by
  simp [encodeFrame]

/-- A stream bit is a bit of its channel, below the mask. -/
theorem streamBit_eq (ch : ChannelVector) (i b : Nat) (hi : i < 16) (hb : b < 11) :
    streamBit ch (11 * i + b) = ch[i].getLsbD b := by
  have h1 : (11 * i + b) / 11 = i := by omega
  have h2 : (11 * i + b) % 11 = b := by omega
  simp [streamBit, h1, h2, hi]

end Sys2Proof.Machine
end

