-- ==== Sys2Proof/Laws/Step.lean ====
section
/-! SUPPORT. What the parts of a step can do, said once. -/

namespace Sys2Proof.Machine

/-- Every report form answers a next state. -/
theorem exec_total (i : Instr) (s : State) : exec i s = .next (match i with
    | .rpt p h v => reportStep p false .none h v s
    | .rptF p h v => reportStep p false .setForward h v s
    | .rptR p h v => reportStep p false .setReverse h v s
    | .rptT p h v => reportStep p false .toggle h v s
    | .rptA p h v => reportStep p true .none h v s
    | .rptAF p h v => reportStep p true .setForward h v s
    | .rptAR p h v => reportStep p true .setReverse h v s
    | .rptAT p h v => reportStep p true .toggle h v s
    | .rptErr _ _ => s) := by
  cases i <;> rfl

theorem decode_port (p : Port) (w : ReportWord) : (decode p w).port = p := by
  unfold decode; split <;> rfl

/-- What the core pops is what its port shows, and no stall holds it back. -/
theorem nextReport_eq_some {s : State} {pick p : Port} {w : ReportWord} (h : s.nextReport pick = some (p, w)) :
    s.stalled = false ∧ s.shown p = some w := by
  unfold State.nextReport at h
  split at h
  · cases h
  · rename_i hst
    refine ⟨by simpa using hst, ?_⟩
    split at h
    · cases h
    · cases h; assumption
    · cases h; assumption
    · split at h <;> cases h <;> assumption

/-- All that the core's part of a cycle can do: nothing, or the pop of one shown report and its REPORT_STEP. -/
theorem corePart_cases {pick : Port} {s t : State} (h : corePart pick s = .next t) :
    (s.nextReport pick = none ∧ t = s) ∨
      ∃ p w, s.nextReport pick = some (p, w) ∧ exec (decode p w) (s.popReport p) = .next t := by
  unfold corePart at h
  split at h
  · cases h; exact .inl ⟨by assumption, rfl⟩
  · exact .inr ⟨_, _, by assumption, h⟩

/-- The core's part of a cycle always answers a next state. -/
theorem corePart_total (pick : Port) (s : State) : ∃ t, corePart pick s = .next t := by
  unfold corePart
  split
  · exact ⟨_, rfl⟩
  · exact ⟨_, exec_total _ _⟩

/-- A cycle is the core's part, then the effect of the emitter's start-of-cycle decision, then the crossing of words. -/
theorem coreCycle_cases {i : CoreInputs} {s t : State} (h : coreCycle i s = .next t) :
    ∃ u, corePart i.pick s = .next u ∧ t = (commitEmitter (emitterAction i.txReady i.txErr s) u).showWords i := by
  unfold coreCycle at h
  split at h
  · cases h; exact ⟨_, by assumption, rfl⟩
  · cases h
  · cases h

theorem coreCycle_total (i : CoreInputs) (s : State) : ∃ t, coreCycle i s = .next t := by
  obtain ⟨u, hu⟩ := corePart_total i.pick s
  exact ⟨_, by unfold coreCycle; rw [hu]⟩

/-- Everything a step can do when it answers a next state, by the reset line and the event. -/
theorem step_cases {s t : State} (h : step s = .next t) :
    (s.event = .resetAsserts ∧ s.resetLine ≠ .asserted ∧ t = s.advance.assertReset) ∨
    (s.resetLine = .asserted ∧ s.event ≠ .resetReleases ∧ t = s.advance) ∨
    (s.resetLine = .asserted ∧ s.event = .resetReleases ∧ t = s.advance.releaseReset) ∨
    (s.resetLine = .released ∧ s.event = .resetReleases ∧ t = s.advance) ∨
    (s.resetLine = .released ∧ ∃ p i, s.event = .portEdge p i ∧ offerBroken (s.fifo p) i = false ∧
      t = s.advance.setFifo p (samplePort s.params.rptDepth (s.fifo p) i)) ∨
    (s.resetLine = .released ∧ ∃ i, s.event = .coreEdge i ∧ s.coreLive = true ∧ coreCycle i s.advance = .next t) ∨
    (s.resetLine = .released ∧ ∃ i, s.event = .coreEdge i ∧ s.coreLive = false ∧
      t = if i.leaveReset then s.advance.startCore else s.advance) := by
  unfold step runEvent at h
  have hf : ∀ p, s.advance.fifo p = s.fifo p := fun p => by cases p <;> rfl
  cases hr : s.resetLine <;> rw [State.advance_resetLine, hr] at h <;> cases he : s.event <;> rw [he] at h <;>
    simp only [runPowerOn, runAsserted, runReleased, portCycle, State.advance_coreLive, State.advance_params, hf] at h
  all_goals first
    | (cases h; done)
    | (cases h; simp)
    | skip
  · split at h
    · cases h
    · cases h; simp_all
  · split at h
    · simp_all
    · split at h <;> cases h <;> simp_all

end Sys2Proof.Machine
end

