-- ==== Sys2Proof/Laws/Cycle.lean ====
section
/-! SUPPORT. All that the core's part, the emitter's part and a run of steps can do, for proofs to cite in place of unfolding
them. -/

namespace Sys2Proof.Machine

/-! ## Taking the event changes the script and the counter only -/

@[simp] theorem State.advance_fifo (s : State) (p : Port) : s.advance.fifo p = s.fifo p := by cases p <;> rfl
@[simp] theorem State.advance_intent (s : State) (p : Port) : s.advance.intent p = s.intent p := by cases p <;> rfl

@[simp] theorem State.advance_nextReport (s : State) (pick : Port) : s.advance.nextReport pick = s.nextReport pick := by
  unfold State.nextReport State.stalled State.commandFull State.shown; simp

@[simp] theorem emitterAction_advance (r e : Bool) (s : State) : emitterAction r e s.advance = emitterAction r e s := by
  unfold emitterAction; simp

/-- With `rst_n` released, a step is its event. -/
theorem step_of_released {s : State} (h : s.resetLine = .released) : step s = runReleased s.event s.advance := by
  unfold step runEvent; simp [h]

/-- In a running block, an edge of `clk` is the core's part, then the effect of the emitter's decision, then the crossing of words. -/
theorem step_of_coreEdge {s : State} {i : CoreInputs} (hr : s.running) (he : s.event = .coreEdge i) :
    ∃ u, corePart i.pick s.advance = .next u ∧
      step s = .next ((commitEmitter (emitterAction i.txReady i.txErr s) u).showWords i) := by
  obtain ⟨t, ht⟩ := coreCycle_total i s.advance
  obtain ⟨u, hu, rfl⟩ := coreCycle_cases ht
  exact ⟨u, hu, by rw [step_of_released hr.1, he]; simp [runReleased, hr.2, ht]⟩

/-- One step more in a run. -/
theorem run_succ {n : Nat} {s u : State} (h : step s = .next u) :
    Host.Core.run Sys2Proof.core (n + 1) s = Host.Core.run Sys2Proof.core n u := by
  have key : ∀ (M : Host.Core) (x y : M.State), M.step x = .next y → M.run (n + 1) x = M.run n y := by
    intro M x y hxy
    show (match M.step x with | .next z => M.run n z | .fault r => .fault r | .refused r => .refused r) = _
    rw [hxy]
  exact key Sys2Proof.core s u h

/-! ## REPORT_STEP and the core's part -/

/-- REPORT_STEP writes the own side's intent and puts at most one command behind the others. -/
theorem reportStep_pushes (p : Port) (a : Bool) (d : DirRequest) (h v : Half) (s : State) :
    ∃ pushed : List CommandWord, pushed.length ≤ 1 ∧
      reportStep p a d h v s = ({ s with qc := s.qc ++ pushed } : State).setIntent p (applyEvents (s.intent p) a d) := by
  rw [reportStep_eq]
  split
  · exact ⟨_, by simp, rfl⟩
  · exact ⟨[], by simp, by simp⟩

/-- REPORT_STEP in the words of the statements. -/
theorem reportStep_eq_afterReport (p : Port) (a : Bool) (d : DirRequest) (h v : Half) (s : State) :
    reportStep p a d h v s = s.afterReport p (applyEvents (s.intent p) a d) h v := by
  rw [reportStep_eq]
  cases p <;> simp only [State.afterReport, State.setIntent, gate, Port.other, State.intent, Bool.and_eq_true,
    Bool.not_eq_true', and_assoc] <;> rfl

/-- What the core's part leaves to the emitter: at most one command more, armed, none in a stall and none in FAILED; the rest
of what the emitter reads is as it was. -/
theorem corePart_queue {pick : Port} {s t : State} (h : corePart pick s = .next t) :
    ∃ pushed : List CommandWord, pushed.length ≤ 1 ∧ t.qc = s.qc ++ pushed ∧ t.estate = s.estate ∧ t.idx = s.idx ∧
      t.frameBuf = s.frameBuf ∧ t.delivered = s.delivered ∧ t.params = s.params ∧ t.resetLine = s.resetLine ∧
      t.coreLive = s.coreLive ∧ t.script = s.script ∧ (s.estate = .failed → pushed = []) ∧
      (s.params.cmdDepth ≤ s.qc.length → s.estate ≠ .failed → pushed = []) ∧ ∀ c ∈ pushed, commandArmed c = true := by
  rcases corePart_cases h with ⟨_, rfl⟩ | ⟨p, w, hn, he⟩
  · exact ⟨[], by simp⟩
  · rcases exec_cases he with ⟨x, _, rfl⟩ | ⟨a, d, hh, v, rfl⟩
    · exact ⟨[], by simp⟩
    · rw [reportStep_eq]
      have hst := (nextReport_eq_some hn).1
      split
      · rename_i hg
        refine ⟨[_], by simp, by simp; rfl, ?_⟩
        simp at hg
        simp [hg]
        simp [State.stalled, State.commandFull] at hst
        by_contra hlt; exact hg.2 (hst (by omega))
      · exact ⟨[], by simp⟩

/-- What the core's part does to the ports and the intents: nothing, or one pop and one intent of the popped port. -/
theorem corePart_ports {pick : Port} {s t : State} (h : corePart pick s = .next t) :
    (s.nextReport pick = none ∧ t = s) ∨
      ∃ p w, s.nextReport pick = some (p, w) ∧ t.arbLast = p ∧ t.fifo p = fifoPop (s.fifo p) ∧
        t.fifo p.other = s.fifo p.other ∧ t.intent p.other = s.intent p.other := by
  rcases corePart_cases h with ⟨hn, rfl⟩ | ⟨p, w, hn, he⟩
  · exact .inl ⟨hn, rfl⟩
  · refine .inr ⟨p, w, hn, ?_⟩
    rcases exec_cases he with ⟨x, _, rfl⟩ | ⟨a, d, hh, v, rfl⟩
    · cases p <;> exact ⟨rfl, rfl, rfl, rfl⟩
    · rw [decode_port]
      obtain ⟨pushed, hl, hs⟩ := reportStep_pushes p a d hh v (s.popReport p)
      rw [hs]
      cases p <;> exact ⟨rfl, rfl, rfl, rfl⟩

/-! ## The emitter's part -/

/-- What an accepted byte leaves. -/
theorem State.acceptByte_eq (s : State) :
    s.acceptByte.delivered = s.delivered ++ [s.currentByte] ∧ s.acceptByte.frameBuf = s.frameBuf ∧
      s.acceptByte.qc = s.qc ∧ s.acceptByte.params = s.params ∧ s.acceptByte.resetLine = s.resetLine ∧
      s.acceptByte.coreLive = s.coreLive ∧ s.acceptByte.script = s.script ∧
      (if s.idx.val < 24 then s.acceptByte.estate = s.estate ∧ s.acceptByte.idx.val = s.idx.val + 1
       else s.acceptByte.estate = .idle) := by
  unfold State.acceptByte
  split <;> simp [*]

/-- The emitter's part touches neither the ports nor the intents. -/
theorem commitEmitter_ports (a : EmitterAction) (t : State) :
    (commitEmitter a t).arbLast = t.arbLast ∧ (commitEmitter a t).ql = t.ql ∧ (commitEmitter a t).qr = t.qr ∧
      (commitEmitter a t).intentL = t.intentL ∧ (commitEmitter a t).intentR = t.intentR ∧
      (commitEmitter a t).params = t.params ∧ (commitEmitter a t).resetLine = t.resetLine ∧
      (commitEmitter a t).coreLive = t.coreLive ∧ (commitEmitter a t).script = t.script := by
  cases a <;> try exact ⟨rfl, rfl, rfl, rfl, rfl, rfl, rfl, rfl, rfl⟩
  simp only [commitEmitter, State.acceptByte]
  split <;> exact ⟨rfl, rfl, rfl, rfl, rfl, rfl, rfl, rfl, rfl⟩

@[simp] theorem commitEmitter_fifo (a : EmitterAction) (t : State) (p : Port) : (commitEmitter a t).fifo p = t.fifo p := by
  obtain ⟨-, hl, hr, -⟩ := commitEmitter_ports a t
  cases p
  · exact hl
  · exact hr

/-- What an edge of `clk` does to the ports and the intents of a running block. -/
theorem step_ports {s t : State} {i : CoreInputs} (hr : s.running) (he : s.event = .coreEdge i) (h : step s = .next t) :
    (s.nextReport i.pick = none ∧ PoppedNone i s t) ∨
      ∃ p w, s.nextReport i.pick = some (p, w) ∧ Popped i s t p ∧ t.intent p.other = s.intent p.other := by
  obtain ⟨u, hu, hs⟩ := step_of_coreEdge hr he
  cases h.symm.trans hs
  obtain ⟨ca, cl, cr, cil, cir, -⟩ := commitEmitter_ports (emitterAction i.txReady i.txErr s) u
  rcases corePart_ports hu with ⟨hn, rfl⟩ | ⟨p, w, hn, h1, h2, h3, h4⟩
  · refine .inl ⟨by simpa using hn, by simp [ca], ?_, ?_, by simp [cil], by simp [cir]⟩
    · rw [State.showWords_ql, cl, State.advance_ql]; exact fifoShow_crosses _ _
    · rw [State.showWords_qr, cr, State.advance_qr]; exact fifoShow_crosses _ _
  · refine .inr ⟨p, w, by simpa using hn, ⟨by simp [ca, h1], ?_, ?_⟩, ?_⟩
    · rw [State.showWords_fifo, commitEmitter_fifo, h2, State.advance_fifo]; exact fifoShow_crosses _ _
    · rw [State.showWords_fifo, commitEmitter_fifo, h3, State.advance_fifo]; exact fifoShow_crosses _ _
    · rw [State.advance_intent] at h4
      rw [State.showWords_intent, ← h4]
      cases p
      · exact cir
      · exact cil

/-! ## The frame -/

/-- Bit `k` of the stream, read from the frame. -/
theorem frameBit_encodeFrame (c : Params) (ch : ChannelVector) (k : Nat) (hk : k < 176) :
    frameBit (encodeFrame c ch) k = streamBit ch k := by
  have h : 1 + k / 8 < 25 := by omega
  unfold frameBit
  rw [show (encodeFrame c ch)[1 + k / 8]? = some ((encodeFrame c ch)[1 + k / 8]) from by simp [h]]
  rw [Option.getD_some, encodeFrame_getElem, frameByte, if_neg (by omega), if_pos (by omega),
    getLsbD_byteOfBits _ _ (by omega)]
  congr 1; omega

/-! ## The axis mapper -/

theorem clampInt_range (a : Int) {lo hi : Int} (h : lo ≤ hi) : lo ≤ clampInt a lo hi ∧ clampInt a lo hi ≤ hi := by
  unfold clampInt; split
  · omega
  · split <;> omega

theorem clampInt_of_mem {a lo hi : Int} (h1 : lo ≤ a) (h2 : a ≤ hi) : clampInt a lo hi = a := by
  unfold clampInt; rw [if_neg (by omega), if_neg (by omega)]

theorem toHalf_toNat (y : Int) : ((toHalf y).toNat : Int) = clampInt y 0 65535 := by
  have := clampInt_range y (lo := 0) (hi := 65535) (by omega)
  unfold toHalf
  rw [BitVec.toNat_ofNat]
  omega

end Sys2Proof.Machine
end

