-- ==== Sys2Proof/Laws/PerInstr.lean ====
section
/-! SUPPORT. A statement for every report form: its encoded word has the form bits of its row of the opcode table. -/

namespace Sys2Proof.Laws.FormBits

/-- `match` and `mask` of a form's row of the opcode table. -/
def row : Instr → ReportWord × ReportWord
  | .rpt _ _ _ => (0x000000000#36, 0xF00000000#36)
  | .rptF _ _ _ => (0x100000000#36, 0xF00000000#36)
  | .rptR _ _ _ => (0x200000000#36, 0xF00000000#36)
  | .rptT _ _ _ => (0x300000000#36, 0xF00000000#36)
  | .rptA _ _ _ => (0x400000000#36, 0xF00000000#36)
  | .rptAF _ _ _ => (0x500000000#36, 0xF00000000#36)
  | .rptAR _ _ _ => (0x600000000#36, 0xF00000000#36)
  | .rptAT _ _ _ => (0x700000000#36, 0xF00000000#36)
  | .rptErr _ _ => (0x800000000#36, 0x800000000#36)

/-- The encoded word agrees with its row under the row's mask. -/
def Statement (i : Instr) : Prop := encode i &&& (row i).2 = (row i).1

/-- The form bits of a word are those it is made of, whatever its H and V. -/
theorem reportWord_mask (f : BitVec 4) (h v : Half) :
    reportWord f h v &&& 0xF00000000#36 = f ++ (0#16 : Half) ++ (0#16 : Half) := by
  have hm : (0xF00000000#36 : ReportWord) = BitVec.allOnes 4 ++ (0#16 : Half) ++ (0#16 : Half) := by decide
  have hf : f &&& BitVec.allOnes 4 = f := BitVec.and_allOnes
  rw [hm, reportWord, BitVec.and_append, BitVec.and_append, hf]
  simp

theorem rpt (p : Port) (h v : Half) : Statement (.rpt p h v) := (reportWord_mask _ h v).trans rfl
theorem rptF (p : Port) (h v : Half) : Statement (.rptF p h v) := (reportWord_mask _ h v).trans rfl
theorem rptR (p : Port) (h v : Half) : Statement (.rptR p h v) := (reportWord_mask _ h v).trans rfl
theorem rptT (p : Port) (h v : Half) : Statement (.rptT p h v) := (reportWord_mask _ h v).trans rfl
theorem rptA (p : Port) (h v : Half) : Statement (.rptA p h v) := (reportWord_mask _ h v).trans rfl
theorem rptAF (p : Port) (h v : Half) : Statement (.rptAF p h v) := (reportWord_mask _ h v).trans rfl
theorem rptAR (p : Port) (h v : Half) : Statement (.rptAR p h v) := (reportWord_mask _ h v).trans rfl
theorem rptAT (p : Port) (h v : Half) : Statement (.rptAT p h v) := (reportWord_mask _ h v).trans rfl

theorem rptErr (p : Port) (ignored : BitVec 35) : Statement (.rptErr p ignored) := by
  have hm : (0x800000000#36 : ReportWord) = 1#1 ++ 0#35 := by decide
  change (1#1 ++ ignored : ReportWord) &&& 0x800000000#36 = 0x800000000#36
  rw [hm, BitVec.and_append]
  simp

end Sys2Proof.Laws.FormBits
end

