-- ==== Sys2Proof/Machine/Text.lean ====
section
/-! DEFINITION. The characters of the textual syntax (30_encoding R62, R63): program lines read into report lines and sink
pseudo-forms, and a report word written as hexadecimal digits. -/

namespace Sys2Proof.Machine

/-- One line of a program: a report (30_encoding R62) or a sink pseudo-form (R63). -/
inductive ProgramLine where
  | report (l : SourceLine)
  | sink (f : SinkForm)
deriving DecidableEq, Repr

/-- The pieces of a line between its spaces. Empty pieces are dropped, so that several spaces are one and spaces before the port and
after the last piece are admitted: the model's choice (log 22). -/
def pieces (line : List Char) : List (List Char) :=
  (line.foldr (fun c acc =>
    match acc with
    | [] => if c = ' ' then [[], []] else [[c]]
    | w :: ws => if c = ' ' then [] :: w :: ws else (c :: w) :: ws) [[]]).filter fun w => !w.isEmpty

/-- The value of a digit in base 10 or 16; both cases of a letter are read. -/
def digitValue (hex : Bool) (c : Char) : Option Nat :=
  if 48 ≤ c.toNat ∧ c.toNat ≤ 57 then some (c.toNat - 48)
  else if hex = true ∧ 65 ≤ c.toNat ∧ c.toNat ≤ 70 then some (c.toNat - 55)
  else if hex = true ∧ 97 ≤ c.toNat ∧ c.toNat ≤ 102 then some (c.toNat - 87)
  else none

/-- The number that digits write, after the number `acc` that the digits before them wrote. -/
def digitsValue (hex : Bool) : Nat → List Char → Option Nat
  | acc, [] => some acc
  | acc, c :: cs =>
    match digitValue hex c with
    | none => none
    | some d => digitsValue hex ((if hex then 16 else 10) * acc + d) cs

/-- A decimal or `0x` hexadecimal integer (30_encoding R62). -/
def parseNumber : List Char → Option Nat
  | [] => none
  | ['0', 'x'] => none
  | '0' :: 'x' :: ds => digitsValue true 0 ds
  | ds => digitsValue false 0 ds

/-- `<port>:` (30_encoding R62). -/
def parsePort : List Char → Option Port
  | ['L', ':'] => some .left
  | ['R', ':'] => some .right
  | _ => none

/-- A mnemonic of 30_encoding R54. -/
def parseMnemonic : List Char → Option Mnemonic
  | ['R', 'P', 'T'] => some .RPT
  | ['R', 'P', 'T', '.', 'F'] => some .RPT_F
  | ['R', 'P', 'T', '.', 'R'] => some .RPT_R
  | ['R', 'P', 'T', '.', 'T'] => some .RPT_T
  | ['R', 'P', 'T', '.', 'A'] => some .RPT_A
  | ['R', 'P', 'T', '.', 'A', 'F'] => some .RPT_AF
  | ['R', 'P', 'T', '.', 'A', 'R'] => some .RPT_AR
  | ['R', 'P', 'T', '.', 'A', 'T'] => some .RPT_AT
  | ['R', 'P', 'T', '.', 'E', 'R', 'R'] => some .RPT_ERR
  | _ => none

/-- `[h=<n>] [v=<n>]`, each of which may be left out (30_encoding R62). -/
def parseOperands : List (List Char) → Option (Option Nat × Option Nat)
  | [] => some (none, none)
  | [ 'h' :: '=' :: n ] => (parseNumber n).map fun h => (some h, none)
  | [ 'v' :: '=' :: n ] => (parseNumber n).map fun v => (none, some v)
  | [ 'h' :: '=' :: n, 'v' :: '=' :: m ] =>
    match parseNumber n, parseNumber m with
    | some h, some v => some (some h, some v)
    | _, _ => none
  | _ => none

/-- The order to the byte sink after `SINK:` (30_encoding R63). -/
def parseSink : List (List Char) → Option SinkForm
  | [['a', 'c', 'c', 'e', 'p', 't']] => some .accept
  | [['s', 't', 'a', 'l', 'l']] => some .stall
  | [['f', 'a', 'i', 'l']] => some .fail
  | _ => none

/-- A report line from its pieces (30_encoding R62). -/
def parseReport : List (List Char) → Option SourceLine
  | port :: mnemonic :: operands =>
    match parsePort port, parseMnemonic mnemonic, parseOperands operands with
    | some p, some m, some hv => some { port := p, mnemonic := m, h := hv.1, v := hv.2 }
    | _, _, _ => none
  | _ => none

/-- A line of a program (30_encoding R62, R63); `none` where the syntax admits none. -/
def parseLine (line : List Char) : Option ProgramLine :=
  match pieces line with
  | ['S', 'I', 'N', 'K', ':'] :: order => (parseSink order).map .sink
  | ws =>
    match parseReport ws with
    | some l => if l.wellFormed then some (.report l) else none
    | none => none

/-- The hexadecimal digit of a value below 16. -/
def hexDigit (n : Nat) : Char := Char.ofNat (if n < 10 then 48 + n else 55 + n)

/-- A report word written as 9 hexadecimal digits, the most significant first (30_encoding R62). -/
def hexDigits (w : ReportWord) : List Char := [8, 7, 6, 5, 4, 3, 2, 1, 0].map fun k => hexDigit (w.toNat / 16 ^ k % 16)

/-- What a report line's characters assemble to, as 9 hexadecimal digits (30_encoding R62). A sink pseudo-form assembles to
nothing (R63). -/
def assembleText (line : List Char) : Option (List Char) :=
  match parseLine line with
  | some (.report l) => l.assemble.map fun i => hexDigits (encode i)
  | some (.sink _) => some []
  | none => none

end Sys2Proof.Machine
end

