-- ==== Sys2Proof/Tests/Slice0.lean ====
section
/-! SUPPORT. The model's own tests. The expected values are those of 95_test_vectors (the row is named in each comment) or are
worked out by hand from the rule named; the witnesses at the end meet the hypotheses of the statements. -/

namespace Sys2Proof.Tests

open Sys2Proof Sys2Proof.Machine

/-! ## Helpers -/

/-- The next state of an outcome. -/
def after (o : Host.Outcome State Fault Refusal) : Option State :=
  match o with
  | .next t => some t
  | .fault _ => none
  | .refused _ => none

/-- Why an outcome is refused. -/
def refusal (o : Host.Outcome State Fault Refusal) : Option Refusal :=
  match o with
  | .next _ => none
  | .fault _ => none
  | .refused r => some r

/-- The reset state with these intents. -/
def withIntents (l r : Intent) : State := { State.reset with intentL := l, intentR := r }

/-- A live report FIFO that shows all its words. -/
def showing (ws : List ReportWord) : ReportFifo := { ReportFifo.empty true with words := ws }

/-- A state in which these words show, with L armed. -/
def withReports (l r : List ReportWord) : State :=
  { withIntents ⟨true, true⟩ ⟨true, false⟩ with ql := showing l, qr := showing r }

/-- The state with this event next. -/
def now (e : EnvEvent) (s : State) : State := { s with script := [e] }

/-- The state under an arbitration policy. -/
def under (policy : Option ArbPolicy) (s : State) : State :=
  { s with params := { Config.defaults with arbPolicy := policy } }

/-- An edge of `clk` with these sink inputs; where the policy is open the right port is picked. -/
def edge (ready err : Bool) : CoreInputs :=
  { txReady := ready, txErr := err, pick := .right, showLeft := 0, showRight := 0, leaveReset := false }

/-- An edge of a port clock. -/
def offer (valid : Bool) (w : ReportWord) : PortInputs := { valid := valid, data := w, freed := 0, leaveReset := false }

/-- The command `armed = 1, fwd = 1, v = 1807, h = 240` (95_test_vectors XV1). -/
def xv1 : CommandWord := 0x3070F00F0#34

/-- The frame of that command is being sent, at byte `i`, with one command waiting. -/
def sending (i : Fin 25) : State :=
  { State.reset with estate := .send, idx := i, frameBuf := encodeFrame Config.defaults (expand Config.defaults xv1), qc := [xv1] }

/-- The emitter has failed and two commands wait. -/
def failedState : State := { withReports [0x003E803E8#36] [] with estate := .failed, qc := [xv1, xv1] }

/-- QC is full. -/
def fullState : State := { withReports [0x003E803E8#36] [] with qc := [xv1, xv1, xv1, xv1] }

/-- `rst_n` is low. -/
def heldInReset : State :=
  { State.reset with resetLine := .asserted, coreLive := false, ql := ReportFifo.empty false, qr := ReportFifo.empty false }

/-- `rst_n` has never been low. -/
def poweredOn : State := { heldInReset with resetLine := .powerOn }

/-- Both intents and the commands after one report. -/
def applied (l r : Intent) (p : Port) (w : ReportWord) : Option (Intent × Intent × List CommandWord) :=
  (after (exec (decode p w) (withIntents l r))).map fun t => (t.intentL, t.intentR, t.qc)

/-! ## Well-formedness: a term that each check refuses -/

/-- R62: 65536 is no number of a report line. -/
theorem test_wf_h_too_large : SourceLine.wellFormed ⟨.left, .RPT, some 65536, none⟩ = false := by decide
theorem test_wf_v_too_large : SourceLine.wellFormed ⟨.left, .RPT_T, none, some 65536⟩ = false := by decide
/-- R62: RPT.ERR takes no `h` and no `v`. -/
theorem test_wf_err_with_h : SourceLine.wellFormed ⟨.left, .RPT_ERR, some 0, none⟩ = false := by decide
theorem test_wf_err_with_v : SourceLine.wellFormed ⟨.right, .RPT_ERR, none, some 0⟩ = false := by decide
/-- R4: the domains of the parameters. -/
theorem test_wf_depth_three : Params.wf { Config.defaults with rptDepth := 3 } = false := by decide
theorem test_wf_depth_one : Params.wf { Config.defaults with rptDepth := 1 } = false := by decide
theorem test_wf_command_depth_zero : Params.wf { Config.defaults with cmdDepth := 0 } = false := by decide
theorem test_wf_one_sync_stage : Params.wf { Config.defaults with syncStages := 1 } = false := by decide
theorem test_wf_defaults : Params.wf Config.defaults = true := by decide

/-! ## Decoding: words of 95_test_vectors section 2.5, bit by bit from R48 and R54 -/

theorem test_decode_rpt : decode .left 0x003E803E8#36 = .rpt .left 1000 1000 := by decide
theorem test_decode_rpt_zero : decode .right 0x000000000#36 = .rpt .right 0 0 := by decide
theorem test_decode_rptF : decode .left 0x1025801F4#36 = .rptF .left 500 600 := by decide
theorem test_decode_rptR : decode .left 0x203E803E8#36 = .rptR .left 1000 1000 := by decide
theorem test_decode_rptT : decode .left 0x300000000#36 = .rptT .left 0 0 := by decide
theorem test_decode_rptA : decode .left 0b010000000111000011110000000011110000#36 = .rptA .left 240 1807 := by decide
theorem test_decode_rptAF : decode .left 0x500000000#36 = .rptAF .left 0 0 := by decide
theorem test_decode_rptAR : decode .left 0x6FFFFFFFF#36 = .rptAR .left 65535 65535 := by decide
theorem test_decode_rptAT : decode .left 0x700080007#36 = .rptAT .left 7 8 := by decide
theorem test_decode_rptErr : decode .left 0xFFFFFFFFF#36 = .rptErr .left 0x7FFFFFFFF#35 := by decide
theorem test_decode_table_word : decodeTableWord 40 0x4070F00F0 = some (.rptA .left 240 1807) := by decide
/-- R61: bit 36 is in no report word. -/
theorem test_decode_too_wide : decodeTableWord 40 0x1000000000 = none := by decide
/-- R62: the rule's own example. -/
theorem test_assemble : (SourceLine.assemble ⟨.left, .RPT_A, some 240, some 1807⟩).map encode = some 0x4070F00F0#36 := by decide
theorem test_assemble_err : (SourceLine.assemble ⟨.right, .RPT_ERR, none, none⟩).map encode = some 0x800000000#36 := by decide

/-- R62: the rule's example in characters, with its word in 9 digits. -/
theorem test_text : assembleText
    ['L', ':', ' ', 'R', 'P', 'T', '.', 'A', ' ', 'h', '=', '2', '4', '0', ' ', 'v', '=', '1', '8', '0', '7'] =
    some ['4', '0', '7', '0', 'F', '0', '0', 'F', '0'] := by decide
/-- R62: a hexadecimal number, and `h` left out. -/
theorem test_text_hex : parseLine ['R', ':', ' ', 'R', 'P', 'T', ' ', 'v', '=', '0', 'x', 'F', 'f'] =
    some (.report ⟨.right, .RPT, none, some 255⟩) := by decide
/-- R63: a sink pseudo-form; R62: RPT.ERR takes no `h`, and no port is called X. -/
theorem test_text_sink_and_refused :
    parseLine ['S', 'I', 'N', 'K', ':', ' ', 'f', 'a', 'i', 'l'] = some (.sink .fail) ∧
    parseLine ['L', ':', ' ', 'R', 'P', 'T', '.', 'E', 'R', 'R', ' ', 'h', '=', '0'] = none ∧
    parseLine ['X', ':', ' ', 'R', 'P', 'T'] = none := by decide

/-! ## The report forms: one report each (95_test_vectors section 2.5) -/

/-- RV1. -/
theorem test_rpt_drives :
    applied ⟨true, true⟩ ⟨true, false⟩ .left 0x003E803E8#36 = some (⟨true, true⟩, ⟨true, false⟩, [0x303E803E8#34]) := by decide
/-- RV12. -/
theorem test_rpt_right_drives_in_reverse :
    applied ⟨true, false⟩ ⟨false, true⟩ .right 0x003E003E0#36 = some (⟨true, false⟩, ⟨false, true⟩, [0x203E003E0#34]) := by decide
/-- RV2. -/
theorem test_rptF : applied ⟨false, true⟩ ⟨true, false⟩ .left 0x1025801F4#36 =
    some (⟨true, true⟩, ⟨true, false⟩, [0x3025801F4#34]) := by decide
/-- RV3. -/
theorem test_rptR : applied ⟨true, true⟩ ⟨true, false⟩ .left 0x203E803E8#36 =
    some (⟨false, true⟩, ⟨true, false⟩, [0x203E803E8#34]) := by decide
/-- RV4. -/
theorem test_rptT_disarmed : applied ⟨true, false⟩ ⟨true, false⟩ .left 0x300000000#36 =
    some (⟨false, false⟩, ⟨true, false⟩, []) := by decide
/-- RV14. -/
theorem test_rptT_other_side_armed : applied ⟨true, true⟩ ⟨true, false⟩ .right 0x300000000#36 =
    some (⟨true, true⟩, ⟨false, false⟩, []) := by decide
/-- RV5. -/
theorem test_rptA_arms_and_drives : applied ⟨true, false⟩ ⟨true, false⟩ .left 0x4070F00F0#36 =
    some (⟨true, true⟩, ⟨true, false⟩, [xv1]) := by decide
/-- RV10. -/
theorem test_rptA_second_side : applied ⟨true, true⟩ ⟨true, false⟩ .right 0x40190012C#36 =
    some (⟨true, true⟩, ⟨true, true⟩, []) := by decide
/-- RV6. -/
theorem test_rptAF_disarms : applied ⟨false, true⟩ ⟨true, false⟩ .left 0x500000000#36 =
    some (⟨true, false⟩, ⟨true, false⟩, []) := by decide
/-- RV7. -/
theorem test_rptAR_right : applied ⟨true, false⟩ ⟨true, false⟩ .right 0x604000400#36 =
    some (⟨true, false⟩, ⟨false, true⟩, [0x204000400#34]) := by decide
/-- RV16. -/
theorem test_rptAR_axes_unmasked : applied ⟨true, false⟩ ⟨true, false⟩ .left 0x6FFFFFFFF#36 =
    some (⟨false, true⟩, ⟨true, false⟩, [0x2FFFFFFFF#34]) := by decide
/-- RV8. -/
theorem test_rptAT_both_armed : applied ⟨true, false⟩ ⟨true, true⟩ .left 0x700000000#36 =
    some (⟨false, true⟩, ⟨true, true⟩, []) := by decide
/-- RV15. -/
theorem test_rptAT_disarms : applied ⟨false, true⟩ ⟨true, false⟩ .left 0x700080007#36 =
    some (⟨true, false⟩, ⟨true, false⟩, []) := by decide
/-- RV9, with the word `0xFFFFFFFFF` of the decoding corner cases. -/
theorem test_rptErr : applied ⟨true, true⟩ ⟨true, false⟩ .left 0xFFFFFFFFF#36 =
    some (⟨true, true⟩, ⟨true, false⟩, []) := by decide

/-- 95_test_vectors section 2.4: MIX `armed`, MIX `fwd`, GATE_L and GATE_R of the 16 pairs, in the table's order. -/
theorem test_mix_and_gate :
    ([⟨true, false⟩, ⟨true, true⟩, ⟨false, false⟩, ⟨false, true⟩].flatMap fun l : Intent =>
      [⟨true, false⟩, ⟨true, true⟩, ⟨false, false⟩, ⟨false, true⟩].map fun r : Intent =>
        ((mix l r).armed, (mix l r).fwd, gate l r, gate r l)) =
    [(false, true, false, false), (true, true, false, true), (false, true, false, false), (true, false, false, true),
     (true, true, true, false), (true, true, false, false), (true, true, true, false), (true, true, false, false),
     (false, true, false, false), (true, true, false, true), (false, true, false, false), (true, false, false, true),
     (true, false, true, false), (true, true, false, false), (true, false, true, false), (true, false, false, false)] := by
  decide

/-! ## The encoder and the expansion (95_test_vectors sections 2.1 and 2.2) -/

/-- EV5: a value above 2047 is masked. -/
theorem test_encode_masks : encodeFrame Config.defaults #v[0xFFFF, 0, 0, 0, 0, 0, 0, 0, 0, 0, 0, 0, 0, 0, 0, 0] =
    #v[0x0F, 0xFF, 0x07, 0, 0, 0, 0, 0, 0, 0, 0, 0, 0, 0, 0, 0, 0, 0, 0, 0, 0, 0, 0, 0, 0] := by decide
/-- EV7: every channel distinct. -/
theorem test_encode_counts : encodeFrame Config.defaults #v[0, 1, 2, 3, 4, 5, 6, 7, 8, 9, 10, 11, 12, 13, 14, 15] =
    #v[0x0F, 0x00, 0x08, 0x80, 0x00, 0x06, 0x40, 0x80, 0x02, 0x18, 0xE0, 0x00, 0x08, 0x48, 0x80, 0x02, 0x16, 0xC0, 0x80,
      0x06, 0x38, 0xE0, 0x01, 0x00, 0x00] := by decide
/-- EV11: alternating bits. -/
theorem test_encode_alternates : encodeFrame Config.defaults (Vector.replicate 16 0x555) =
    #v[0x0F, 0x55, 0xAD, 0x6A, 0x55, 0xAB, 0x5A, 0xD5, 0xAA, 0x56, 0xB5, 0xAA, 0x55, 0xAD, 0x6A, 0x55, 0xAB, 0x5A, 0xD5,
      0xAA, 0x56, 0xB5, 0xAA, 0x00, 0x00] := by decide
/-- The inverse check after EV16: EV7 decodes to its channel numbers. -/
theorem test_inverse : (List.range 16).map (frameChannel
    #v[0x0F, 0x00, 0x08, 0x80, 0x00, 0x06, 0x40, 0x80, 0x02, 0x18, 0xE0, 0x00, 0x08, 0x48, 0x80, 0x02, 0x16, 0xC0, 0x80,
      0x06, 0x38, 0xE0, 0x01, 0x00, 0x00]) = (List.range 16).map (BitVec.ofNat 11) := by decide
/-- XV1: the source's end-to-end command. -/
theorem test_expand_xv1 : expand Config.defaults xv1 =
    #v[240, 0, 1807, 0, 1807, 1807, 240, 240, 0, 0, 0, 0, 0, 0, 0, 0] := by decide
/-- XV10: `armed = 0` takes the low threshold. -/
theorem test_expand_disarmed : expand Config.defaults 0x103E803E8#34 =
    #v[1000, 0, 1000, 0, 240, 1807, 240, 240, 0, 0, 0, 0, 0, 0, 0, 0] := by decide
/-- XV3: the frame of a command in reverse. -/
theorem test_frame_reverse : encodeFrame Config.defaults (expand Config.defaults 0x203E803E8#34) =
    #v[0x0F, 0xE8, 0x03, 0x00, 0xFA, 0x00, 0xF0, 0x70, 0x78, 0xC0, 0x03, 0x1E, 0, 0, 0, 0, 0, 0, 0, 0, 0, 0, 0, 0, 0] := by
  decide

/-! ## Cycles: one step each -/

/-- ET1, cycle 2: the report is popped and applied, and its command is not loaded in the same cycle (R116). -/
theorem test_cycle_pushes : (after (step (now (.coreEdge (edge false false)) (withReports [0x0070F00F0#36] [])))).map
    (fun t => (t.ql.words, t.qc, t.estate)) = some ([], [xv1], .idle) := by decide
/-- ET1, cycle 3: the load. -/
theorem test_cycle_loads : (after (step (now (.coreEdge (edge true false)) { State.reset with qc := [xv1] }))).map
    (fun t => (t.qc, t.estate, t.idx, t.frameBuf)) = some ([], .send, 0,
      #v[0x0F, 0xF0, 0x00, 0xC0, 0xC3, 0x01, 0xF0, 0xF0, 0x87, 0xC3, 0x03, 0x1E, 0, 0, 0, 0, 0, 0, 0, 0, 0, 0, 0, 0, 0]) := by
  decide
/-- ET4: `tx_err` wins over `tx_ready`, and the byte is not delivered. -/
theorem test_cycle_error_wins : (after (step (now (.coreEdge (edge true true)) (sending 3)))).map
    (fun t => (t.estate, t.idx, t.delivered)) = some (.failed, 3, []) := by decide
/-- ET1, cycle 28: the last byte. -/
theorem test_cycle_last_byte : (after (step (now (.coreEdge (edge true false)) (sending 24)))).map
    (fun t => (t.estate, t.delivered, t.qc)) = some (.idle, [0x00], [xv1]) := by decide
/-- ET5 and ET6: in FAILED one command is discarded, and a report with its gate open pushes nothing. -/
theorem test_cycle_failed_drains : (after (step (now (.coreEdge (edge true true)) failedState))).map
    (fun t => (t.estate, t.qc, t.ql.words)) = some (.failed, [xv1], []) := by decide
/-- ET8: QC is full at the start of the cycle, so the core stalls although the emitter loads. -/
theorem test_cycle_stall : (after (step (now (.coreEdge (edge true false)) fullState))).map
    (fun t => (t.qc.length, t.ql.words, t.estate)) = some (3, [0x003E803E8#36], .send) := by decide
/-- AV1 to AV3, cycle 0, and the open policy with the right port picked. -/
theorem test_arbitration : ([some .roundRobin, some .leftFirst, some .rightFirst, none].map fun policy =>
    (after (step (now (.coreEdge (edge true false)) (under policy (withReports [1#36, 2#36] [3#36, 4#36]))))).map
      (fun t => (t.arbLast, t.ql.words.length, t.qr.words.length))) =
    [some (.left, 1, 2), some (.left, 1, 2), some (.right, 2, 1), some (.right, 2, 1)] := by decide
/-- R140: a push; the word does not show yet (R141). -/
theorem test_port_push : (after (step (now (.portEdge .right (offer true 5#36)) State.reset))).map
    (fun t => (t.qr.words, t.qr.visible, t.qr.ages, t.qr.offer)) = some ([5#36], 0, [0], none) := by decide
/-- R140: a full FIFO takes nothing, and the word waits. -/
theorem test_port_full : (after (step (now (.portEdge .left (offer true 5#36)) (withReports [1#36, 2#36, 3#36, 4#36] [])))).map
    (fun t => (t.ql.words.length, t.ql.offer)) = some (4, some 5#36) := by decide
/-- R140, R142: a freed entry shows to the write side at an edge of its clock, and counts from the next edge on. -/
theorem test_port_learns_of_room : (after (step (now (.portEdge .left { offer true 5#36 with freed := 1 })
    { State.reset with ql := { showing [1#36, 2#36, 3#36] with unfreed := 1 } }))).map
    (fun t => (t.ql.words.length, t.ql.unfreed, t.ql.offer, t.ready .left)) = some (3, 0, some 5#36, true) := by decide
/-- R141: two words, as old as each other, cross at one edge of `clk` and are not popped at it; a third was never pushed. -/
theorem test_cycle_shows : (after (step (now (.coreEdge { edge true false with showLeft := 3 })
    { State.reset with ql := { showing [1#36, 2#36] with ages := [0, 0] } }))).map
    (fun t => (t.ql.words, t.ql.visible, t.ql.lastDelay)) = some ([1#36, 2#36], 2, 1) := by decide
/-- R141, K-U17: two words pushed one core cycle apart; the first crosses after two cycles, so the second may not after one. -/
theorem test_later_word_takes_no_less : (after (step (now (.coreEdge { edge true false with showLeft := 2 })
    { State.reset with ql := { showing [1#36, 2#36] with ages := [1, 0] } }))).map
    (fun t => (t.ql.visible, t.ql.ages, t.ql.lastDelay)) = some (1, [1], 2) := by decide
/-- R141: a crossing in the cycle of a pop. -/
theorem test_cycle_pops_and_shows : (after (step (now (.coreEdge { edge true false with showLeft := 1 })
    { State.reset with ql := { showing [1#36, 2#36] with ages := [1] } }))).map
    (fun t => (t.ql.words, t.ql.visible, t.ql.unfreed)) = some ([2#36], 1, 1) := by decide
/-- R149: a waiting word that changes is refused. -/
theorem test_port_broken : refusal (step (now (.portEdge .left (offer true 6#36))
    { State.reset with ql := { showing [] with offer := some 5#36 } })) = some (.producerProtocol .left) := by decide
/-- R172: no run before the first assertion of `rst_n`. -/
theorem test_power_on : refusal (step (now (.coreEdge (edge true false)) poweredOn)) = some .stateBeforeReset := by decide
/-- R30, R167: reset empties the queues and leaves FAILED. -/
theorem test_reset_leaves_failed : (after (step (now .resetAsserts failedState))).map
    (fun t => (t.estate, t.qc, t.ql.words, t.intentL)) = some (.idle, [], [], ⟨true, false⟩) := by decide
/-- The word that `withFetchWord` places is the first one that runs after reset (RV5). -/
theorem test_fetch_word : (after (step (State.reset.withFetchWord 40 0x4070F00F0))).map
    (fun t => (t.intentL, t.qc, t.ql.words)) = some (⟨true, true⟩, [xv1], []) := by decide
/-- R63: `SINK: fail` drives `tx_err` at the next byte offered and only there. -/
theorem test_sink_fail :
    sinkEdge (sinkTold ⟨true, false⟩ .fail) State.reset (edge false false) = .coreEdge (edge true false) ∧
    sinkEdge (sinkTold ⟨true, false⟩ .fail) (sending 0) (edge false false) = .coreEdge (edge true true) ∧
    sinkAfter (sinkTold ⟨true, false⟩ .fail) (sending 0) = ⟨true, false⟩ := by decide
theorem test_sink_stall_and_accept :
    sinkTold ⟨true, false⟩ .stall = ⟨false, false⟩ ∧ sinkTold ⟨false, true⟩ .accept = ⟨true, false⟩ := by decide

/-! ## The axis mapper (95_test_vectors section 2.8) -/

/-- MV1, MV2. -/
theorem test_map_end_to_end :
    axisMap 3240 Config.leftHorizontal = some 240 ∧ axisMap 3240 Config.leftVertical = some 1807 := by decide
/-- MV4, MV10: ties round away from zero. -/
theorem test_map_ties : axisMap 0 ⟨5, 5, 240, 1807, true⟩ = some 1024 ∧ axisMap 1 ⟨0, 2, 0, 1, false⟩ = some 1 := by decide
/-- MV7, MV12: the mirror comes before the clamp; a sample outside is clamped. -/
theorem test_map_clamps :
    axisMap 100 Config.leftHorizontal = some 1807 ∧ axisMap 5 ⟨10, 20, 10, 20, false⟩ = some 10 := by decide
/-- MV13, MV14. -/
theorem test_map_interior :
    axisMap 2000 Config.leftVertical = some 907 ∧ axisMap 2000 Config.leftHorizontal = some 996 := by decide

/-! ## Witnesses: the hypotheses of the statements can be met -/

theorem witness_DecodeOfEncodeIsTheInstruction :
    (Instr.rptAT .right 65535 0).wellFormed = true ∧ (Instr.rptErr .left 0x7FFFFFFFF#35).wellFormed = true := by decide
theorem witness_ReportLinesAssembleToTheirWords :
    SourceLine.wellFormed ⟨.left, .RPT_AT, some 65535, none⟩ = true ∧ SourceLine.wellFormed ⟨.right, .RPT, some 0, some 65535⟩ = true ∧
    SourceLine.wellFormed ⟨.left, .RPT_ERR, none, none⟩ = true := by decide
theorem witness_AxisOnlyReportLeavesTheIntent :
    (State.reset.intent .left).armed = false ∧ (State.reset.intent .right).armed = false := by decide
theorem witness_ErrorReportOnlyLeavesItsFifo :
    (now (.coreEdge (edge true false)) (withReports [0x800000000#36] [])).running ∧
    (now (.coreEdge (edge true false)) (withReports [0x800000000#36] [])).event = .coreEdge (edge true false) ∧
    (now (.coreEdge (edge true false)) (withReports [0x800000000#36] [])).nextReport .right = some (.left, 0x800000000#36) ∧
    (0x800000000#36).getLsbD 35 = true := ⟨⟨rfl, rfl⟩, by decide, by decide, by decide⟩
/-- RV3 from the left and RV7 from the right: the new intents and the mixes that the hypotheses ask for. -/
theorem witness_ReportStepFollowsTheWordsBits :
    ((0x203E803E8#36).getLsbD 34 = false ∧ (0x203E803E8#36).extractLsb' 32 2 = 0b10#2 ∧
      mix ⟨false, true⟩ ⟨true, false⟩ = ⟨true, false⟩) ∧
    ((0x604000400#36).getLsbD 34 = true ∧ (0x604000400#36).extractLsb' 32 2 = 0b10#2 ∧
      mix ⟨true, false⟩ ⟨false, true⟩ = ⟨true, false⟩) := by decide
theorem witness_ReportsTouchOnlyTheirOwnSideAndTheQueue :
    ∃ t, exec (.rptAR .right 1024 1024) State.reset = .next t := ⟨_, rfl⟩
theorem witness_ArmedAndDirectionAreIndependent :
    ∃ t t', exec (.rptAT .left 0 0) (withIntents ⟨true, false⟩ ⟨true, false⟩) = .next t ∧
      exec (.rptAT .left 0 0) (withIntents ⟨false, false⟩ ⟨true, true⟩) = .next t' ∧
      ((withIntents ⟨true, false⟩ ⟨true, false⟩).intent .left).armed =
        ((withIntents ⟨false, false⟩ ⟨true, true⟩).intent .left).armed := ⟨_, _, rfl, rfl, rfl⟩
theorem witness_TwoTogglesRestoreTheIntent :
    ∃ t u, exec (.rptAT .left 1 2) State.reset = .next t ∧ exec (.rptAT .left 3 4) t = .next u := ⟨_, _, rfl, rfl⟩
theorem witness_PushedCommandIsTheDrivers :
    ∃ t, exec (.rptA .left 240 1807) State.reset = .next t ∧ t.qc = State.reset.qc ++ [xv1] := ⟨_, rfl, by decide⟩
theorem witness_CommandsComeOnlyFromTheOneArmedSide :
    (∃ t, exec (.rptA .left 240 1807) State.reset = .next t ∧ (t.intent .left).armed = true ∧ (t.intent .right).armed = false) ∧
    (∃ t, exec (.rptErr .left 0) (withIntents ⟨true, true⟩ ⟨true, false⟩) = .next t ∧ t.qc = []) :=
  ⟨⟨_, rfl, by decide, by decide⟩, ⟨_, rfl, by decide⟩⟩
theorem witness_SidesAreInterchangeable : ∃ t, exec (.rptR .right 9 9) (withReports [1#36] [2#36]) = .next t := ⟨_, rfl⟩
theorem witness_ArmingRaceMakesOneCommand :
    State.reset.intentL.armed = false ∧ State.reset.intentR.armed = false ∧ State.reset.estate ≠ .failed := by decide
/-- The first bit of channel 0 and the last of channel 15. -/
theorem witness_ChannelBitsLieLeastSignificantFirst :
    ((1 : Fin 25).val = 1 + (11 * (0 : Fin 16).val + (0 : Fin 11).val) / 8) ∧
    ((22 : Fin 25).val = 1 + (11 * (15 : Fin 16).val + (10 : Fin 11).val) / 8) := by decide

/-- The hypotheses that the statements about an edge of `clk` share. -/
theorem running_edge (r e : Bool) (s : State) (h : s.running) :
    (now (.coreEdge (edge r e)) s).running ∧ (now (.coreEdge (edge r e)) s).event = .coreEdge (edge r e) := ⟨h, rfl⟩

/-- QC empty, and one command waiting. -/
theorem witness_IdleEmitterLoadsTheOldestCommand :
    (now (.coreEdge (edge true true)) (withReports [0x003E803E8#36] [])).running ∧
    (now (.coreEdge (edge true true)) (withReports [0x003E803E8#36] [])).event = .coreEdge (edge true true) ∧
    (withReports [0x003E803E8#36] []).estate = .idle ∧ (withReports [0x003E803E8#36] []).qc = [] ∧
    { State.reset with qc := [xv1] }.running ∧ { State.reset with qc := [xv1] }.estate = .idle :=
  ⟨⟨rfl, rfl⟩, rfl, rfl, rfl, ⟨rfl, rfl⟩, rfl⟩
/-- A failing, an accepting and an unanswered edge, at byte 23 and at byte 24. -/
theorem witness_SendingEmitterHandsOverOneByte :
    ((now (.coreEdge (edge true true)) (sending 23)).running ∧
      (now (.coreEdge (edge true true)) (sending 23)).event = .coreEdge (edge true true) ∧ (sending 23).estate = .send) ∧
    ((now (.coreEdge (edge true false)) (sending 24)).running ∧
      (now (.coreEdge (edge true false)) (sending 24)).event = .coreEdge (edge true false) ∧ (sending 24).estate = .send) ∧
    ((now (.coreEdge (edge false false)) (sending 24)).running ∧
      (now (.coreEdge (edge false false)) (sending 24)).event = .coreEdge (edge false false)) :=
  ⟨⟨⟨rfl, rfl⟩, rfl, rfl⟩, ⟨⟨rfl, rfl⟩, rfl, rfl⟩, ⟨rfl, rfl⟩, rfl⟩
theorem witness_FailedEmitterDrainsTheQueue :
    (now (.coreEdge (edge true true)) failedState).running ∧
    (now (.coreEdge (edge true true)) failedState).event = .coreEdge (edge true true) ∧ failedState.estate = .failed ∧
    failedState.qc ≠ [] := ⟨⟨rfl, rfl⟩, rfl, rfl, by decide⟩
theorem witness_FailedIsTerminalUntilReset :
    failedState.estate = .failed ∧ (now (.coreEdge (edge true true)) failedState).event ≠ .resetAsserts ∧
    (after (step (now (.coreEdge (edge true true)) failedState))).isSome = true := by decide
theorem witness_SinkInputsMatterOnlyInSend : State.reset.estate ≠ .send ∧ failedState.estate ≠ .send := by decide
theorem witness_AcceptedFrameIsDeliveredWhole :
    (sending 0).running ∧ (sending 0).estate = .send ∧ (sending 0).idx = 0 ∧
    (List.replicate 25 (edge true false)).length = 25 ∧
    (∀ i ∈ List.replicate 25 (edge true false), i.txReady = true ∧ i.txErr = false) ∧
    { sending 0 with script := (List.replicate 25 (edge true false)).map EnvEvent.coreEdge ++ [EnvEvent.resetAsserts] }.script =
      (List.replicate 25 (edge true false)).map EnvEvent.coreEdge ++ [EnvEvent.resetAsserts] :=
  ⟨⟨rfl, rfl⟩, rfl, rfl, rfl, by decide, rfl⟩
theorem witness_UnansweredByteIsOfferedForever :
    (sending 24).running ∧ (sending 24).estate = .send ∧ (List.replicate 3 (edge false false)).length = 3 ∧
    (∀ i ∈ List.replicate 3 (edge false false), i.txReady = false ∧ i.txErr = false) :=
  ⟨⟨rfl, rfl⟩, rfl, rfl, by decide⟩
theorem witness_EveryCommandBecomesItsFrameOnceInOrder :
    (now (.coreEdge (edge true false)) (sending 24)).event ≠ .resetAsserts ∧
    ((after (step (now (.coreEdge (edge true false)) (sending 24)))).map fun t => decide (t.estate ≠ .failed)) = some true ∧
    ((after (step (now (.coreEdge (edge true false)) (withReports [0x003E803E8#36] [])))).map fun t => t.qc.length) = some 1 := by
  decide

theorem witness_StepRunsTheDecodedReport :
    (now (.coreEdge (edge true false)) (withReports [] [0x700080007#36])).running ∧
    (now (.coreEdge (edge true false)) (withReports [] [0x700080007#36])).event = .coreEdge (edge true false) ∧
    (now (.coreEdge (edge true false)) (withReports [] [0x700080007#36])).nextReport .right = some (.right, 0x700080007#36) ∧
    decode .right 0x700080007#36 = .rptAT .right 7 8 ∧ (Instr.rptAT .right 7 8).wellFormed = true :=
  ⟨⟨rfl, rfl⟩, rfl, by decide, by decide, rfl⟩
/-- Each clause: a stall, nothing shown, one port shown, and both shown under each policy. -/
theorem witness_CorePopsWhatTheArbitrationChooses :
    (now (.coreEdge (edge true false)) fullState).running ∧
    (now (.coreEdge (edge true false)) fullState).event = .coreEdge (edge true false) ∧
    (fullState.params.cmdDepth ≤ fullState.qc.length ∧ fullState.estate ≠ .failed) ∧
    (State.reset.shown .left = none ∧ State.reset.shown .right = none) ∧
    ((withReports [1#36] []).shown .left = some 1#36 ∧ (withReports [1#36] []).shown .right = none ∧
      (withReports [1#36] []).ql.visible ≠ 0) ∧
    ((withReports [] [1#36]).shown .left = none ∧ (withReports [] [1#36]).shown .right = some 1#36) ∧
    ((withReports [1#36] [2#36]).shown .left = some 1#36 ∧ (withReports [1#36] [2#36]).shown .right = some 2#36) ∧
    (under (some .roundRobin) (withReports [1#36] [2#36])).params.arbPolicy = some .roundRobin :=
  ⟨⟨rfl, rfl⟩, rfl, by decide, by decide, by decide, by decide, by decide, rfl⟩
theorem witness_OpenArbitrationServesThePickedPort :
    (now (.coreEdge (edge true false)) (withReports [1#36] [2#36])).running ∧
    (now (.coreEdge (edge true false)) (withReports [1#36] [2#36])).event = .coreEdge (edge true false) ∧
    (withReports [1#36] [2#36]).stalled = false ∧ (withReports [1#36] [2#36]).params.arbPolicy = none ∧
    (withReports [1#36] [2#36]).shown .left = some 1#36 ∧ (withReports [1#36] [2#36]).shown .right = some 2#36 :=
  ⟨⟨rfl, rfl⟩, rfl, by decide, rfl, by decide, by decide⟩
theorem witness_StalledCoreChangesNothing :
    (now (.coreEdge (edge false false)) fullState).running ∧
    (now (.coreEdge (edge false false)) fullState).event = .coreEdge (edge false false) ∧
    fullState.params.cmdDepth ≤ fullState.qc.length ∧ fullState.estate ≠ .failed := ⟨⟨rfl, rfl⟩, rfl, by decide, by decide⟩
theorem witness_NoStepChangesTheParameters :
    (after (step (now .resetAsserts failedState))).isSome = true ∧
    (after (step (now (.coreEdge (edge true false)) (sending 24)))).isSome = true := by decide
theorem witness_AtMostOneIntentChangesInAStep :
    (now (.coreEdge (edge true false)) (withReports [0x400000000#36] [0x400000000#36])).event ≠ .resetAsserts ∧
    (after (step (now (.coreEdge (edge true false)) (withReports [0x400000000#36] [0x400000000#36])))).isSome = true ∧
    (∀ i, (now (.portEdge .left (offer true 1#36)) State.reset).event ≠ .coreEdge i) := ⟨by decide, by decide, fun _ h => by cases h⟩
/-- Both ports show a word and ARB_LAST is R: L is served, and the word of R still shows. -/
theorem witness_RoundRobinStarvesNoPort :
    (under (some .roundRobin) (withReports [1#36] [2#36])).params.arbPolicy = some .roundRobin ∧
    (under (some .roundRobin) (withReports [1#36] [2#36])).shown .left = some 1#36 ∧
    (under (some .roundRobin) (withReports [1#36] [2#36])).shown .right = some 2#36 ∧
    (now (.coreEdge (edge true false)) (under (some .roundRobin) (withReports [1#36] [2#36]))).event ≠ .resetAsserts ∧
    (after (step (now (.coreEdge (edge true false)) (under (some .roundRobin) (withReports [1#36] [2#36]))))).map
      (fun t => t.shown .right) = some (some 2#36) := by decide
theorem witness_ReportFifosKeepOrder :
    (now (.portEdge .left (offer true 5#36)) State.reset).event ≠ .resetAsserts ∧
    (after (step (now (.portEdge .left (offer true 5#36)) State.reset))).isSome = true ∧
    (after (step (now (.coreEdge (edge true false)) (withReports [1#36] [])))).isSome = true := by decide
/-- A port that takes a word, a full port with the same word waiting, and a port in reset. -/
theorem witness_PortEdgePushesWhenValidAndReady :
    (State.reset.ready .left = true ∧ heldInReset.ready .left = false) ∧
    (State.reset.resetLine = .released ∧
      (now (.portEdge .left (offer true 5#36)) State.reset).event = .portEdge .left (offer true 5#36) ∧
      State.reset.keepsHandshake .left (offer true 5#36)) ∧
    ({ State.reset with ql := { showing [1#36, 2#36, 3#36, 4#36] with offer := some 5#36 } } : State).keepsHandshake .left
      (offer true 5#36) ∧
    (withReports [1#36, 2#36, 3#36, 4#36] []).params.rptDepth ≤ (withReports [1#36, 2#36, 3#36, 4#36] []).ql.words.length :=
  ⟨by decide, ⟨rfl, rfl, fun _ h => (by cases h)⟩, fun _ h => ⟨rfl, by injection h⟩, by decide⟩
theorem witness_BrokenHandshakeIsRefused :
    State.reset.resetLine = .released ∧
    (now (.portEdge .left (offer true 6#36)) State.reset).event = .portEdge .left (offer true 6#36) ∧
    ({ showing [] with offer := some 5#36 } : ReportFifo).offer = some 5#36 ∧
    (offer true 6#36).data ≠ 5#36 ∧ (offer false 5#36).valid = false := by decide
/-- An edge of `clk` at which a word crosses and another is popped, and an edge of one port's clock only. -/
theorem witness_CrossingsMoveOnlyTheViews :
    ((now (.coreEdge { edge true false with showLeft := 1 })
        { State.reset with ql := { showing [1#36, 2#36] with ages := [1] } }).running ∧
      ({ showing [1#36, 2#36] with ages := [1] } : ReportFifo).ages.length ≤ [1#36, 2#36].length ∧
      (after (step (now (.coreEdge { edge true false with showLeft := 1 })
        { State.reset with ql := { showing [1#36, 2#36] with ages := [1] } }))).isSome = true) ∧
    ((now (.portEdge .left (offer true 5#36)) State.reset).event ≠ .resetAsserts ∧
      (after (step (now (.portEdge .left (offer true 5#36)) State.reset))).isSome = true ∧
      (∀ i, (now (.portEdge .left (offer true 5#36)) State.reset).event ≠ .coreEdge i) ∧
      (∀ i, (now (.portEdge .left (offer true 5#36)) State.reset).event ≠ .portEdge .right i)) :=
  ⟨⟨⟨rfl, rfl⟩, by decide, by decide⟩, by decide, by decide, fun _ h => (by cases h), fun _ h => (by cases h)⟩

/-- A failed block, a block before its first reset, and one held in reset. -/
theorem witness_AssertedResetHoldsEverything :
    (failedState.resetLine ≠ .asserted ∧ (now .resetAsserts failedState).event = .resetAsserts) ∧
    (poweredOn.resetLine ≠ .asserted ∧ (now .resetAsserts poweredOn).event = .resetAsserts) ∧
    (heldInReset.resetLine = .asserted ∧ (now .resetAsserts heldInReset).event ≠ .resetReleases) := by decide
theorem witness_DomainsLeaveResetAtTheirOwnEdges :
    (heldInReset.resetLine = .asserted ∧ (now .resetReleases heldInReset).event = .resetReleases) ∧
    (heldInReset.releaseReset.resetLine = .released ∧ heldInReset.releaseReset.ql.live = false ∧
      { heldInReset.releaseReset with ql := { ReportFifo.empty false with offer := some 1#36 } }.keepsHandshake .left
        (offer true 1#36) ∧
      (now (.portEdge .left (offer true 1#36)) heldInReset.releaseReset).event = .portEdge .left (offer true 1#36)) ∧
    (heldInReset.releaseReset.coreLive = false ∧
      (now (.coreEdge (edge true false)) heldInReset.releaseReset).event = .coreEdge (edge true false)) :=
  ⟨by decide, ⟨rfl, rfl, fun _ h => ⟨rfl, by injection h⟩, rfl⟩, rfl, rfl⟩
theorem witness_RunsMustStartFromReset :
    poweredOn.resetLine = .powerOn ∧ (now .resetReleases poweredOn).event ≠ .resetAsserts := by decide
/-- Of a finished run: a clock may still run, and a producer's clock with nothing offered; an offer to come is not finished. -/
theorem test_finished :
    { State.reset with script := [.coreEdge (edge true true), .portEdge .left (offer false 1#36)] }.finished = true ∧
    { State.reset with script := [.coreEdge (edge true true), .portEdge .left (offer true 1#36)] }.finished = false ∧
    (sending 3).finished = false := by decide
/-- After reset, in FAILED with nothing queued, and held in reset. -/
theorem witness_QuiescentBlockStaysAsItIs :
    (State.reset.quiescent = true ∧ State.reset.resetLine ≠ .powerOn ∧
      (now (.coreEdge (edge true true)) State.reset).event ≠ .resetAsserts) ∧
    { State.reset with estate := .failed }.quiescent = true ∧ heldInReset.quiescent = true ∧
    (∀ p i, (now (.coreEdge (edge true true)) State.reset).event = .portEdge p i → i.valid = false) ∧
    ((now (.coreEdge (edge true true)) State.reset).finished = true ∧ (now (.coreEdge (edge true true)) State.reset).script ≠ []) :=
  ⟨by decide, by decide, by decide, fun _ _ h => (by cases h), by decide⟩

/-- A state in the middle of a frame that meets the invariant, and from which a step is taken. -/
theorem witness_EveryStepKeepsTheInvariant :
    Inv (now (.coreEdge (edge true false)) (sending 23)) ∧
    (after (step (now (.coreEdge (edge true false)) (sending 23)))).isSome = true := by
  refine ⟨⟨by decide, ⟨by decide, by decide, by decide⟩, ⟨by decide, by decide, by decide⟩, by decide, ?_,
    fun _ => ⟨xv1, by decide, rfl⟩, fun h => (by cases h), fun h => absurd rfl h⟩, rfl⟩
  intro c hc
  cases hc with
  | head => decide
  | tail _ h => cases h
/-- A state held in reset that meets the invariant. -/
theorem witness_invariant_in_reset : Inv heldInReset :=
  ⟨by decide, ⟨by decide, by decide, by decide⟩, ⟨by decide, by decide, by decide⟩, by decide,
    fun _ h => (by cases h), fun h => (by cases h), fun _ => ⟨rfl, rfl, rfl, rfl, rfl, rfl, rfl, rfl, rfl, rfl, rfl, rfl⟩,
    fun _ => ⟨rfl, rfl, rfl⟩⟩

theorem witness_MapOfDegenerateAndReversedRanges :
    (⟨5, 5, 100, 200, false⟩ : Calibration).smin = (⟨5, 5, 100, 200, false⟩ : Calibration).smax ∧
    (⟨3240, 670, 240, 1807, false⟩ : Calibration).smax < (⟨3240, 670, 240, 1807, false⟩ : Calibration).smin := by decide
theorem witness_MapStaysInTheTargetRange :
    Config.leftHorizontal.smin < Config.leftHorizontal.smax ∧ 0 ≤ Config.leftHorizontal.tmin ∧
    Config.leftHorizontal.tmin ≤ Config.leftHorizontal.tmax ∧ Config.leftHorizontal.tmax ≤ 65535 := by decide
/-- MV14 and its right-hand side MV15; and MV11. -/
theorem witness_MapInvertsByMirroringAndKeepsTheIdentity :
    (Config.leftHorizontal.smin ≤ (2000 : Nat) ∧ ((2000 : Nat) : Int) ≤ Config.leftHorizontal.smax ∧
      ((1910 : Nat) : Int) = Config.leftHorizontal.smin + Config.leftHorizontal.smax - (2000 : Nat)) ∧
    ((0 : Int) < 2047 ∧ (0 : Int) ≤ (1000 : Nat) ∧ ((1000 : Nat) : Int) ≤ 2047 ∧ 1000 ≤ 65535) := by decide

end Sys2Proof.Tests
end

section
/-! The statements about the state as a whole: its values at reset, its status outputs, its parameters, its intents and the
invariant that every step keeps. -/

namespace Sys2Proof.Machine

/-! ## The ports -/

theorem Port.eq_or_eq_other (p q : Port) : q = p ∨ q = p.other := by cases p <;> cases q <;> simp [Port.other]

/-- What holds of a port and of the other one holds of every port. -/
theorem Port.forall_of_other {P : Port → Prop} (p : Port) (own : P p) (other : P p.other) (q : Port) : P q := by
  rcases Port.eq_or_eq_other p q with rfl | rfl
  · exact own
  · exact other

/-! ## The reset state and the status outputs -/

/-- MIX of the direction: two sides of one armed bit are mixed together, and else the armed side decides (42_arbitration_resolver
R102). -/
theorem mix_fwd (l r : Intent) :
    (mix l r).fwd = if l.armed = r.armed then !l.armed || l.fwd || r.fwd else if l.armed then l.fwd else r.fwd := by
  unfold mix
  cases hl : l.armed <;> cases hr : r.armed
  · simp
  · simp
  · simp
  · cases l.fwd <;> cases r.fwd <;> simp

theorem State.stIdle_iff (s : State) :
    s.stIdle = true ↔ s.ql.visible = 0 ∧ s.qr.visible = 0 ∧ s.qc = [] ∧ s.estate ≠ .send := by
  simp [State.stIdle, and_assoc]

/-- Settles O49, by evaluation of the one state. -/
theorem resetStateHoldsTheSpecsValues : Obligations.ResetStateHoldsTheSpecsValues := by
  unfold Obligations.ResetStateHoldsTheSpecsValues
  exact ⟨rfl, rfl, rfl, rfl, rfl, rfl, rfl, rfl, by decide⟩

/-- Settles O53: the intent bits and MIX's armed bit are read off, and the rest are `mix_fwd` and `State.stIdle_iff`. -/
theorem statusOutputsShowTheRegisters : Obligations.StatusOutputsShowTheRegisters := by
  unfold Obligations.StatusOutputsShowTheRegisters
  exact fun s => ⟨rfl, rfl, rfl, rfl, rfl, mix_fwd s.intentL s.intentR, decide_eq_true_iff, s.stIdle_iff⟩

/-! ## The frame of a step: the parameters and the intents -/

/-- A cycle of the core keeps the parameters. -/
theorem coreCycle_params {i : CoreInputs} {s t : State} (h : coreCycle i s = .next t) : t.params = s.params := by
  obtain ⟨u, hu, rfl⟩ := coreCycle_cases h
  obtain ⟨_, -, -, -, -, -, -, core, -⟩ := corePart_queue hu
  obtain ⟨-, -, -, -, -, emitter, -⟩ := commitEmitter_ports (emitterAction i.txReady i.txErr s) u
  rw [State.showWords_params, emitter, core]

/-- Settles O55, by the cases of a step. -/
theorem noStepChangesTheParameters : Obligations.NoStepChangesTheParameters := by
  unfold Obligations.NoStepChangesTheParameters
  intro s t h
  rcases step_cases h with ⟨-, -, rfl⟩ | ⟨-, -, rfl⟩ | ⟨-, -, rfl⟩ | ⟨-, -, rfl⟩ | ⟨-, p, i, -, -, rfl⟩ |
    ⟨-, i, -, -, hc⟩ | ⟨-, i, -, -, rfl⟩
  · simp
  · simp
  · simp
  · simp
  · simp
  · simpa using coreCycle_params hc
  · split <;> simp

/-- But for the assertion of `rst_n`, a step that is no edge of `clk` leaves both intents. -/
theorem step_intents_of_not_coreEdge {s t : State} (ha : s.event ≠ .resetAsserts) (hn : ∀ i, s.event ≠ .coreEdge i)
    (h : step s = .next t) : t.intentL = s.intentL ∧ t.intentR = s.intentR := by
  rcases step_cases h with ⟨he, -⟩ | ⟨-, -, rfl⟩ | ⟨-, -, rfl⟩ | ⟨-, -, rfl⟩ | ⟨-, p, i, -, -, rfl⟩ |
    ⟨-, i, he, -⟩ | ⟨-, i, he, -⟩
  · exact absurd he ha
  · simp
  · simp
  · simp
  · simp
  · exact absurd he (hn i)
  · exact absurd he (hn i)

/-- An edge of `clk` leaves the intent of one side: of both with no report popped, and else of the side that was not popped. -/
theorem step_intents_of_coreEdge {s t : State} {i : CoreInputs} (he : s.event = .coreEdge i) (h : step s = .next t) :
    t.intentL = s.intentL ∨ t.intentR = s.intentR := by
  rcases step_cases h with ⟨he', -⟩ | ⟨-, -, rfl⟩ | ⟨-, -, rfl⟩ | ⟨-, -, rfl⟩ | ⟨-, p, i, he', -⟩ |
    ⟨hr, -, -, hl, -⟩ | ⟨-, i, -, -, rfl⟩
  · cases he.symm.trans he'
  · simp
  · simp
  · simp
  · cases he.symm.trans he'
  · rcases step_ports ⟨hr, hl⟩ he h with ⟨-, -, -, -, hL, -⟩ | ⟨p, w, -, -, hother⟩
    · exact .inl hL
    · cases p
      · exact .inr hother
      · exact .inl hother
  · split <;> simp

/-- Settles O43: an edge of `clk` applies one report at most, and the other events touch no intent. -/
theorem atMostOneIntentChangesInAStep : Obligations.AtMostOneIntentChangesInAStep := by
  unfold Obligations.AtMostOneIntentChangesInAStep
  intro s t ha h
  refine ⟨?_, fun hn => step_intents_of_not_coreEdge ha hn h⟩
  by_cases he : ∃ i, s.event = .coreEdge i
  · obtain ⟨i, he⟩ := he
    exact step_intents_of_coreEdge he h
  · exact .inl (step_intents_of_not_coreEdge ha (not_exists.1 he) h).1

/-! ## What the invariant says of a port and of a running block -/

theorem Inv.fifo {s : State} (h : Inv s) (p : Port) : FifoInv s.params.rptDepth (s.fifo p) := by
  cases p
  · exact h.left
  · exact h.right

/-- In a running block no domain of the core is in reset, so the invariant speaks of the FIFOs, QC and the frame only. -/
theorem Inv.of_running {s : State} (hr : s.running) (params_wf : s.params.wf = true)
    (fifo : ∀ p, FifoInv s.params.rptDepth (s.fifo p)) (qc_bound : s.qc.length ≤ s.params.cmdDepth)
    (qc_armed : ∀ c ∈ s.qc, commandArmed c = true)
    (frame : s.estate = .send → ∃ c, commandArmed c = true ∧ s.frameBuf = encodeFrame s.params (expand s.params c)) :
    Inv s where
  params_wf := params_wf
  left := fifo .left
  right := fifo .right
  qc_bound := qc_bound
  qc_armed := qc_armed
  frame := frame
  core_held := fun hl => absurd (hr.2.symm.trans hl) (by decide)
  all_held := fun hl => absurd hr.1 hl

/-! ## Each event but a cycle of the core keeps the invariant -/

/-- The invariant reads neither the script nor the counter. -/
theorem Inv.advance {s : State} (h : Inv s) : Inv s.advance :=
  ⟨h.params_wf, h.left, h.right, h.qc_bound, h.qc_armed, h.frame, h.core_held, h.all_held⟩

theorem Inv.assertReset {s : State} (h : Inv s) : Inv s.assertReset where
  params_wf := h.params_wf
  left := empty_inv false
  right := empty_inv false
  qc_bound := Nat.zero_le _
  qc_armed := by simp
  frame := by simp
  core_held := fun _ => ⟨rfl, rfl, rfl, rfl, rfl, rfl, rfl, rfl, rfl, rfl, rfl, rfl⟩
  all_held := fun _ => ⟨rfl, rfl, rfl⟩

theorem Inv.releaseReset {s : State} (h : Inv s) : Inv s.releaseReset :=
  ⟨h.params_wf, h.left, h.right, h.qc_bound, h.qc_armed, h.frame, h.core_held, fun hl => absurd rfl hl⟩

theorem Inv.startCore {s : State} (h : Inv s) (hr : s.resetLine = .released) : Inv s.startCore :=
  .of_running ⟨hr, rfl⟩ h.params_wf h.fifo h.qc_bound h.qc_armed h.frame

/-- A FIFO as it stands while the core is held in reset (70_reset_and_hazards R167, R168). -/
def ReportFifo.CoreHeld (f : ReportFifo) : Prop := f.visible = 0 ∧ f.lastDelay = 0 ∧ f.unfreed = 0

theorem Inv.fifo_coreHeld {s : State} (h : Inv s) (hl : s.coreLive = false) (p : Port) : (s.fifo p).CoreHeld := by
  obtain ⟨-, -, -, vl, vr, dl, dr, ul, ur, -⟩ := h.core_held hl
  cases p
  · exact ⟨vl, dl, ul⟩
  · exact ⟨vr, dr, ur⟩

theorem samplePort_coreHeld {f : ReportFifo} (depth : Nat) (i : PortInputs) (h : f.CoreHeld) :
    (samplePort depth f i).CoreHeld := by
  obtain ⟨hv, hd, hu⟩ := h
  refine ⟨(samplePort_visible depth f i).trans hv, ?_, ?_⟩ <;> rw [samplePort_eq]
  · exact hd
  · simp [hu]

/-- A port's edge writes one FIFO; what must hold of both FIFOs is shown of that one by `samplePort_inv` and
`samplePort_coreHeld`. -/
theorem Inv.portEdge {s : State} (h : Inv s) (hr : s.resetLine = .released) (p : Port) (i : PortInputs) :
    Inv (s.setFifo p (samplePort s.params.rptDepth (s.fifo p) i)) := by
  have fifo : ∀ q, FifoInv s.params.rptDepth ((s.setFifo p (samplePort s.params.rptDepth (s.fifo p) i)).fifo q) :=
    Port.forall_of_other p (by simpa using samplePort_inv i (h.fifo p)) (by simpa using h.fifo p.other)
  have held (hl : s.coreLive = false) :
      ∀ q, ((s.setFifo p (samplePort s.params.rptDepth (s.fifo p) i)).fifo q).CoreHeld :=
    Port.forall_of_other p (by simpa using samplePort_coreHeld _ i (h.fifo_coreHeld hl p))
      (by simpa using h.fifo_coreHeld hl p.other)
  refine ⟨by simpa using h.params_wf, by simpa using fifo .left, by simpa using fifo .right, by simpa using h.qc_bound,
    by simpa using h.qc_armed, by simpa using h.frame, fun hl => ?_, fun hn => absurd (by simpa using hr) hn⟩
  rw [State.setFifo_coreLive] at hl
  obtain ⟨iL, iR, arb, -, -, -, -, -, -, queue⟩ := h.core_held hl
  obtain ⟨vl, dl, ul⟩ := held hl .left
  obtain ⟨vr, dr, ur⟩ := held hl .right
  exact ⟨by simpa using iL, by simpa using iR, by simpa using arb, vl, vr, dl, dr, ul, ur, by simpa using queue⟩

/-! ## The core's part keeps the invariant -/

/-- The core pops a port only when it shows a word, so its FIFOs stay within their depth. -/
theorem corePart_fifoInv {depth : Nat} {pick : Port} {s t : State} (hc : corePart pick s = .next t)
    (h : ∀ p, FifoInv depth (s.fifo p)) : ∀ p, FifoInv depth (t.fifo p) := by
  rcases corePart_ports hc with ⟨-, rfl⟩ | ⟨p, w, hn, -, hpop, hother, -⟩
  · exact h
  · have hshown : fifoShown (s.fifo p) = some w := (nextReport_eq_some hn).2
    refine Port.forall_of_other p ?_ ?_
    · rw [hpop]; exact fifoPop_inv (h p) hshown
    · rw [hother]; exact h p.other

/-- The core pushes no command onto a full QC: a full QC stalls it, and in FAILED it pushes none. -/
theorem corePart_qc_bound {pick : Port} {s t : State} (hc : corePart pick s = .next t)
    (h : s.qc.length ≤ s.params.cmdDepth) : t.qc.length ≤ s.params.cmdDepth := by
  obtain ⟨pushed, hlen, hqc, -, -, -, -, -, -, -, -, hfailed, hstall, -⟩ := corePart_queue hc
  rw [hqc, List.length_append]
  rcases Nat.lt_or_ge s.qc.length s.params.cmdDepth with hroom | hfull
  · omega
  · have hnone : pushed = [] := (em (s.estate = .failed)).elim hfailed (hstall hfull)
    simpa [hnone] using h

theorem Inv.corePart {pick : Port} {s t : State} (h : Inv s) (hr : s.running) (hc : corePart pick s = .next t) :
    Inv t ∧ t.running := by
  obtain ⟨pushed, -, hqc, hest, -, hbuf, -, hpar, hrl, hcl, -, -, -, harmed⟩ := corePart_queue hc
  have ht : t.running := ⟨hrl.trans hr.1, hcl.trans hr.2⟩
  refine ⟨.of_running ht ?_ ?_ ?_ (fun c hm => ?_) ?_, ht⟩
  · rw [hpar]; exact h.params_wf
  · rw [hpar]; exact corePart_fifoInv hc h.fifo
  · rw [hpar]; exact corePart_qc_bound hc h.qc_bound
  · rcases List.mem_append.1 (hqc ▸ hm) with hold | hnew
    · exact h.qc_armed c hold
    · exact harmed c hnew
  · rw [hest, hbuf, hpar]; exact h.frame

/-! ## The emitter's part and the crossing keep the invariant -/

/-- The emitter loads the head of QC only. -/
theorem mem_qc_of_load {r e : Bool} {s : State} {c : CommandWord} (h : emitterAction r e s = .load c) : c ∈ s.qc := by
  unfold emitterAction at h
  split at h
  · split at h
    · cases h
    · rename_i hq
      cases h
      simp [hq]
  · split at h
    · cases h
    · split at h <;> cases h
  · split at h <;> cases h

/-- The emitter pops the head of QC or leaves it. -/
theorem commitEmitter_qc_suffix (a : EmitterAction) (s : State) : (commitEmitter a s).qc <:+ s.qc := by
  cases a with
  | hold => exact List.suffix_refl _
  | load c => exact List.tail_suffix _
  | accept =>
    obtain ⟨-, -, hqc, -⟩ := s.acceptByte_eq
    exact hqc ▸ List.suffix_refl _
  | fail => exact List.suffix_refl _
  | discard => exact List.tail_suffix _

/-- In SEND, after the emitter's part, the frame is that of the command just loaded, or the frame that was being sent. -/
theorem commitEmitter_frame {a : EmitterAction} {s : State} (h : (commitEmitter a s).estate = .send) :
    (∃ c, a = .load c ∧ (commitEmitter a s).frameBuf = encodeFrame s.params (expand s.params c)) ∨
      s.estate = .send ∧ (commitEmitter a s).frameBuf = s.frameBuf := by
  cases a with
  | hold => exact .inr ⟨h, rfl⟩
  | load c => exact .inl ⟨c, rfl, rfl⟩
  | accept =>
    obtain ⟨-, hbuf, -, -, -, -, -, hnext⟩ := s.acceptByte_eq
    refine .inr ⟨?_, hbuf⟩
    split at hnext
    · exact hnext.1.symm.trans h
    · cases hnext.symm.trans h
  | fail => cases h
  | discard => exact .inr ⟨h, rfl⟩

theorem Inv.commitEmitter {a : EmitterAction} {s : State} (h : Inv s) (hr : s.running)
    (hload : ∀ c, a = .load c → commandArmed c = true) : Inv (commitEmitter a s) ∧ (commitEmitter a s).running := by
  obtain ⟨-, -, -, -, -, hpar, hrl, hcl, -⟩ := commitEmitter_ports a s
  have hqc := commitEmitter_qc_suffix a s
  have ht : (Machine.commitEmitter a s).running := ⟨hrl.trans hr.1, hcl.trans hr.2⟩
  refine ⟨.of_running ht ?_ (fun p => ?_) ?_ (fun c hc => h.qc_armed c (hqc.subset hc)) (fun hs => ?_), ht⟩ <;> rw [hpar]
  · exact h.params_wf
  · rw [commitEmitter_fifo]; exact h.fifo p
  · exact hqc.length_le.trans h.qc_bound
  · rcases commitEmitter_frame hs with ⟨c, hc, hbuf⟩ | ⟨hsend, hbuf⟩
    · exact ⟨c, hload c hc, hbuf⟩
    · rw [hbuf]; exact h.frame hsend

theorem Inv.showWords {s : State} (h : Inv s) (hr : s.running) (i : CoreInputs) : Inv (s.showWords i) :=
  .of_running hr h.params_wf (fun p => by rw [State.showWords_fifo]; exact fifoShow_inv _ (h.fifo p)) h.qc_bound h.qc_armed
    h.frame

/-- The core's part, the emitter's part and the crossing in a row; the command that the emitter loads was queued at the start of
the cycle, so it is armed. -/
theorem Inv.coreCycle {i : CoreInputs} {s t : State} (h : Inv s) (hr : s.running) (hc : coreCycle i s = .next t) : Inv t := by
  obtain ⟨u, hu, rfl⟩ := coreCycle_cases hc
  obtain ⟨hInvCore, hrCore⟩ := h.corePart hr hu
  obtain ⟨hInvEmitter, hrEmitter⟩ :=
    hInvCore.commitEmitter hrCore fun c (hl : emitterAction i.txReady i.txErr s = .load c) => h.qc_armed c (mem_qc_of_load hl)
  exact hInvEmitter.showWords hrEmitter i

/-! ## The invariant -/

/-- Settles O56: the queues are empty and every domain is out of reset. -/
theorem invariantHoldsAtReset : Obligations.InvariantHoldsAtReset := by
  unfold Obligations.InvariantHoldsAtReset
  exact .of_running ⟨rfl, rfl⟩ (by decide) (fun p => by cases p <;> exact empty_inv true) (Nat.zero_le _)
    (fun _ hc => absurd hc List.not_mem_nil) (fun hs => by cases hs)

/-- Settles O57, by the cases of a step: each kind of event keeps the invariant. -/
theorem everyStepKeepsTheInvariant : Obligations.EveryStepKeepsTheInvariant := by
  unfold Obligations.EveryStepKeepsTheInvariant
  intro s t hi h
  have ha := hi.advance
  rcases step_cases h with ⟨-, -, rfl⟩ | ⟨-, -, rfl⟩ | ⟨-, -, rfl⟩ | ⟨-, -, rfl⟩ | ⟨hr, p, i, -, -, rfl⟩ |
    ⟨hr, i, -, hl, hc⟩ | ⟨hr, i, -, -, rfl⟩
  · exact ha.assertReset
  · exact ha
  · exact ha.releaseReset
  · exact ha
  · have hp := ha.portEdge hr p i
    rwa [State.advance_fifo, State.advance_params] at hp
  · exact ha.coreCycle ⟨hr, hl⟩ hc
  · split
    · exact ha.startCore hr
    · exact ha

end Sys2Proof.Machine
end

section
/-! The statement about the frame's bit order: where each bit of a channel lies (20_memory R33). -/

namespace Sys2Proof.Machine

/-- `frameBit` reads the byte and the bit that 20_memory R33 names, whenever the frame has that byte. -/
theorem frameBit_eq_getLsbD (f : Frame) (k : Nat) (j : Fin 25) (hj : j.val = 1 + k / 8) :
    frameBit f k = f[j].getLsbD (k % 8) := by
  simp [frameBit, ← hj]

/-- Settles O27: the byte's bit is a stream bit of the frame, the frame holds ENCODE's stream, and that stream bit is the
channel's bit. -/
theorem channelBitsLieLeastSignificantFirst : Obligations.ChannelBitsLieLeastSignificantFirst := by
  unfold Obligations.ChannelBitsLieLeastSignificantFirst
  intro c ch i b j hj
  have inStream : 11 * i.val + b.val < 176 := by omega
  calc (encodeFrame c ch)[j].getLsbD ((11 * i.val + b.val) % 8)
      = frameBit (encodeFrame c ch) (11 * i.val + b.val) := (frameBit_eq_getLsbD _ _ j hj).symm
    _ = streamBit ch (11 * i.val + b.val) := frameBit_encodeFrame c ch _ inStream
    _ = ch[i].getLsbD b.val := streamBit_eq ch i.val b.val i.isLt b.isLt

end Sys2Proof.Machine
end

section
/-! The statements about the encoding of reports (30_encoding R48 to R62). The eight forms with bit 35 clear are one form over
their two events, which the bits [34:32] select; decoder and encoder each have one equation for it and one for RPT.ERR. -/

namespace Sys2Proof

/-! ## A report form as its events -/

/-- The two bits of field DIRREQ that select a direction event (30_encoding R50). -/
def DirRequest.bits : DirRequest → BitVec 2
  | .none => 0b00#2
  | .setForward => 0b01#2
  | .setReverse => 0b10#2
  | .toggle => 0b11#2

/-- The report form with ERR clear whose fields ARMT and DIRREQ select the events `armt` and `dir` (30_encoding R54). -/
def Instr.ofEvents (armt : Bool) (dir : DirRequest) (p : Port) (h v : Half) : Instr :=
  match armt, dir with
  | false, .none => .rpt p h v
  | false, .setForward => .rptF p h v
  | false, .setReverse => .rptR p h v
  | false, .toggle => .rptT p h v
  | true, .none => .rptA p h v
  | true, .setForward => .rptAF p h v
  | true, .setReverse => .rptAR p h v
  | true, .toggle => .rptAT p h v

/-- The form bits [35:32] of the report with these events: ERR clear, then ARMT, then DIRREQ (30_encoding R48). -/
def eventBits (armt : Bool) (dir : DirRequest) : BitVec 4 := 0#1 ++ BitVec.ofBool armt ++ dir.bits

/-- RPT.ERR and the eight choices of events are all the forms there are (30_encoding R54). -/
theorem Instr.eq_rptErr_or_ofEvents (i : Instr) :
    (∃ p ignored, i = .rptErr p ignored) ∨ ∃ armt dir p h v, i = .ofEvents armt dir p h v := by
  cases i with
  | rpt p h v => exact .inr ⟨false, .none, p, h, v, rfl⟩
  | rptF p h v => exact .inr ⟨false, .setForward, p, h, v, rfl⟩
  | rptR p h v => exact .inr ⟨false, .setReverse, p, h, v, rfl⟩
  | rptT p h v => exact .inr ⟨false, .toggle, p, h, v, rfl⟩
  | rptA p h v => exact .inr ⟨true, .none, p, h, v, rfl⟩
  | rptAF p h v => exact .inr ⟨true, .setForward, p, h, v, rfl⟩
  | rptAR p h v => exact .inr ⟨true, .setReverse, p, h, v, rfl⟩
  | rptAT p h v => exact .inr ⟨true, .toggle, p, h, v, rfl⟩
  | rptErr p ignored => exact .inl ⟨p, ignored, rfl⟩

@[simp] theorem Instr.ofEvents_port (armt : Bool) (dir : DirRequest) (p : Port) (h v : Half) :
    (Instr.ofEvents armt dir p h v).port = p := by
  cases armt <;> cases dir <;> rfl

theorem encode_ofEvents (armt : Bool) (dir : DirRequest) (p : Port) (h v : Half) :
    encode (.ofEvents armt dir p h v) = reportWord (eventBits armt dir) h v := by
  cases armt <;> cases dir <;> rfl

theorem encode_rptErr (p : Port) (ignored : BitVec 35) : encode (.rptErr p ignored) = 1#1 ++ ignored := rfl

/-! ## The decoder by bit 35 -/

theorem decode_of_err {w : ReportWord} (herr : w.err = true) (p : Port) : decode p w = .rptErr p w.low := by
  simp [decode, herr]

theorem decode_of_not_err {w : ReportWord} (herr : w.err = false) (p : Port) :
    decode p w = .ofEvents w.armt w.dirreq p w.h w.v := by
  unfold decode
  rw [herr]
  cases w.armt <;> cases w.dirreq <;> rfl

/-! ## The fields of a word that is put together -/

section
variable (form : BitVec 4) (h v : Half)

@[simp] theorem reportWord_h : (reportWord form h v).h = h := BitVec.extractLsb'_append_eq_right

@[simp] theorem reportWord_v : (reportWord form h v).v = v :=
  (BitVec.extractLsb'_append_eq_of_le (Nat.le_refl 16)).trans BitVec.extractLsb'_append_eq_right

/-- The bits above H and V are the form bits. -/
theorem reportWord_getLsbD_form (b : Nat) : (reportWord form h v).getLsbD (32 + b) = form.getLsbD b := by
  have hH : ¬ 32 + b < 16 := by omega
  have hV : ¬ 32 + b - 16 < 16 := by omega
  have hForm : 32 + b - 16 - 16 = b := by omega
  rw [reportWord, BitVec.getLsbD_append, if_neg hH, BitVec.getLsbD_append, if_neg hV, hForm]

theorem reportWord_toNat : (reportWord form h v).toNat = form.toNat * 2 ^ 32 + v.toNat * 2 ^ 16 + h.toNat := by
  have hh := h.isLt
  have hv := v.isLt
  rw [reportWord, BitVec.toNat_append, BitVec.toNat_append, ← Nat.shiftLeft_add_eq_or_of_lt hv,
    ← Nat.shiftLeft_add_eq_or_of_lt hh, Nat.shiftLeft_eq, Nat.shiftLeft_eq]
  omega
end

section
variable (armt : Bool) (dir : DirRequest) (h v : Half)

@[simp] theorem reportWord_eventBits_err : (reportWord (eventBits armt dir) h v).err = false := by
  rw [ReportWord.err, reportWord_getLsbD_form _ _ _ 3]
  cases armt <;> cases dir <;> rfl

@[simp] theorem reportWord_eventBits_armt : (reportWord (eventBits armt dir) h v).armt = armt := by
  rw [ReportWord.armt, reportWord_getLsbD_form _ _ _ 2]
  cases armt <;> cases dir <;> rfl

@[simp] theorem reportWord_eventBits_dirreq : (reportWord (eventBits armt dir) h v).dirreq = dir := by
  rw [ReportWord.dirreq, reportWord_getLsbD_form _ _ _ 1, reportWord_getLsbD_form _ _ _ 0]
  cases armt <;> cases dir <;> rfl
end

@[simp] theorem errWord_err (ignored : BitVec 35) : ReportWord.err (1#1 ++ ignored) = true := by
  rw [ReportWord.err, BitVec.getLsbD_append]
  rfl

@[simp] theorem errWord_low (ignored : BitVec 35) : ReportWord.low (1#1 ++ ignored) = ignored :=
  BitVec.extractLsb'_append_eq_right

/-! ## A word as its fields -/

/-- One bit of a word as a field of width 1. -/
theorem ofBool_getLsbD (w : ReportWord) (k : Nat) : BitVec.ofBool (w.getLsbD k) = w.extractLsb' k 1 := by
  ext b hb
  simp [Nat.lt_one_iff.mp hb]

theorem ReportWord.dirreq_bits (w : ReportWord) : w.dirreq.bits = w.extractLsb' 32 2 := by
  calc w.dirreq.bits
      = BitVec.ofBool (w.getLsbD 33) ++ BitVec.ofBool (w.getLsbD 32) := by
        rw [ReportWord.dirreq]; cases w.getLsbD 33 <;> cases w.getLsbD 32 <;> rfl
    _ = w.extractLsb' 33 1 ++ w.extractLsb' 32 1 := by rw [ofBool_getLsbD, ofBool_getLsbD]
    _ = w.extractLsb' 32 2 := BitVec.extractLsb'_append_extractLsb'_eq_extractLsb' rfl

/-- Bits [34:32] are ARMT and DIRREQ. -/
theorem ReportWord.armt_append_dirreq_bits (w : ReportWord) :
    BitVec.ofBool w.armt ++ w.dirreq.bits = w.extractLsb' 32 3 := by
  rw [ReportWord.armt, ofBool_getLsbD, dirreq_bits]
  exact BitVec.extractLsb'_append_extractLsb'_eq_extractLsb' rfl

/-- Bits [35:32] of a word with ERR clear are the form bits of its events. -/
theorem ReportWord.eventBits_of_not_err {w : ReportWord} (herr : w.err = false) :
    eventBits w.armt w.dirreq = w.extractLsb' 32 4 := by
  have hzero : (0#1 : BitVec 1) = BitVec.ofBool w.err := by rw [herr]; rfl
  rw [eventBits, hzero, ReportWord.err, ReportWord.armt, ofBool_getLsbD, ofBool_getLsbD, dirreq_bits,
    BitVec.extractLsb'_append_extractLsb'_eq_extractLsb' (by rfl)]
  exact BitVec.extractLsb'_append_extractLsb'_eq_extractLsb' rfl

/-- A word is its form bits, V and H. -/
theorem reportWord_fields (w : ReportWord) : reportWord (w.extractLsb' 32 4) w.h w.v = w := by
  have hTop : w.extractLsb' 32 4 ++ w.extractLsb' 16 16 = w.extractLsb' 16 20 :=
    BitVec.extractLsb'_append_extractLsb'_eq_extractLsb' rfl
  rw [reportWord, ReportWord.v, ReportWord.h, hTop]
  exact BitVec.extractLsb'_append_extractLsb'

/-- A word with ERR set is bit 35 above the ignored bits. -/
theorem ReportWord.errWord_of_err {w : ReportWord} (herr : w.err = true) : 1#1 ++ w.low = w := by
  have hone : (1#1 : BitVec 1) = BitVec.ofBool w.err := by rw [herr]; rfl
  rw [hone, ReportWord.err, ofBool_getLsbD]
  exact BitVec.extractLsb'_append_extractLsb'

/-! ## Decoder and encoder are inverse to each other -/

theorem decode_encode (i : Instr) : decode i.port (encode i) = i := by
  obtain ⟨p, ignored, rfl⟩ | ⟨armt, dir, p, h, v, rfl⟩ := i.eq_rptErr_or_ofEvents
  · rw [encode_rptErr, decode_of_err (errWord_err ignored), errWord_low]
    rfl
  · rw [encode_ofEvents, decode_of_not_err (reportWord_eventBits_err armt dir h v)]
    simp

theorem encode_decode (p : Port) (w : ReportWord) : encode (decode p w) = w := by
  cases herr : w.err with
  | true =>
    rw [decode_of_err herr]
    exact ReportWord.errWord_of_err herr
  | false =>
    rw [decode_of_not_err herr, encode_ofEvents, ReportWord.eventBits_of_not_err herr]
    exact reportWord_fields w

/-- Settles O1: both sides of the round trip split on RPT.ERR and the events of the other eight forms. -/
theorem decodeOfEncodeIsTheInstruction : Obligations.DecodeOfEncodeIsTheInstruction := by
  unfold Obligations.DecodeOfEncodeIsTheInstruction
  exact fun i _ => decode_encode i

/-- Settles O2: bit 35 says which equation of the decoder applies, and the word is put together from its fields again. -/
theorem encodeOfDecodeIsTheWord : Obligations.EncodeOfDecodeIsTheWord := by
  unfold Obligations.EncodeOfDecodeIsTheWord
  exact fun p w => ⟨encode_decode p w, Machine.decode_port p w⟩

/-- Settles O3: bit 35 clear leaves the events, and bits [34:32] are their bits. -/
theorem everyWordIsOneOfTheNineForms : Obligations.EveryWordIsOneOfTheNineForms := by
  unfold Obligations.EveryWordIsOneOfTheNineForms
  intro p w
  split
  case isTrue herr => exact decode_of_err herr p
  case isFalse herr =>
    rw [decode_of_not_err (Bool.eq_false_of_not_eq_true herr), ← w.armt_append_dirreq_bits]
    cases w.armt <;> cases w.dirreq <;> rfl

/-- Settles O4: each word is the encoding of its report, and the decoder gives it back. -/
theorem writtenOutWordsDecode : Obligations.WrittenOutWordsDecode := by
  unfold Obligations.WrittenOutWordsDecode
  exact ⟨decode_encode (.rpt .left 1000 1000), decode_encode (.rptF .left 500 600), decode_encode (.rptR .left 1000 1000),
    decode_encode (.rptT .left 0 0), decode_encode (.rptA .left 240 1807), decode_encode (.rptAF .left 0 0),
    decode_encode (.rptAR .right 1024 1024), decode_encode (.rptAT .left 7 8), decode_encode (.rptErr .left 0x500000000#35)⟩

/-! ## The assembler -/

theorem SourceLine.wellFormed_iff (l : SourceLine) :
    l.wellFormed = true ↔ l.h.getD 0 ≤ 65535 ∧ l.v.getD 0 ≤ 65535 ∧ (l.mnemonic = .RPT_ERR → l.h = none ∧ l.v = none) := by
  simp only [wellFormed, numberOk, operandsOk, Bool.and_eq_true, decide_eq_true_eq, and_assoc]
  cases l.mnemonic <;> simp

theorem SourceLine.assemble_of_wellFormed {l : SourceLine} (hl : l.wellFormed = true) :
    l.assemble = some (l.mnemonic.form l.port (BitVec.ofNat 16 (l.h.getD 0)) (BitVec.ofNat 16 (l.v.getD 0))) :=
  if_pos hl

theorem Mnemonic.form_port (m : Mnemonic) (p : Port) (h v : Half) : (m.form p h v).port = p := by cases m <;> rfl

/-- Settles O5: an admitted number fits its field, so the word's number is the sum of its fields' numbers. -/
theorem reportLinesAssembleToTheirWords : Obligations.ReportLinesAssembleToTheirWords := by
  unfold Obligations.ReportLinesAssembleToTheirWords
  intro l hl
  refine ⟨_, l.assemble_of_wellFormed hl, Mnemonic.form_port _ _ _ _, ?_⟩
  obtain ⟨hh, hv, hErr⟩ := l.wellFormed_iff.mp hl
  have toNat_h : (BitVec.ofNat 16 (l.h.getD 0)).toNat = l.h.getD 0 := Nat.mod_eq_of_lt (Nat.lt_succ_of_le hh)
  have toNat_v : (BitVec.ofNat 16 (l.v.getD 0)).toNat = l.v.getD 0 := Nat.mod_eq_of_lt (Nat.lt_succ_of_le hv)
  have word (form : BitVec 4) : (reportWord form (BitVec.ofNat 16 (l.h.getD 0)) (BitVec.ofNat 16 (l.v.getD 0))).toNat =
      form.toNat * 2 ^ 32 + l.v.getD 0 * 2 ^ 16 + l.h.getD 0 := by
    rw [reportWord_toNat, toNat_h, toNat_v]
  cases hm : l.mnemonic with
  | RPT => exact word 0b0000#4
  | RPT_F => exact word 0b0001#4
  | RPT_R => exact word 0b0010#4
  | RPT_T => exact word 0b0011#4
  | RPT_A => exact word 0b0100#4
  | RPT_AF => exact word 0b0101#4
  | RPT_AR => exact word 0b0110#4
  | RPT_AT => exact word 0b0111#4
  | RPT_ERR =>
    obtain ⟨h_none, v_none⟩ := hErr hm
    rw [h_none, v_none]
    rfl

end Sys2Proof
end

section
/-! The statement about the frame's bytes (30_encoding R59): each byte of the stream lies in one channel or takes the top of one
and the bottom of the next. -/

namespace Sys2Proof.Machine

/-- A byte is byte `j` of the frame when its bits are the stream's bits there. -/
theorem frameByte_eq_of_streamBits (c : Params) (ch : ChannelVector) {j : Nat} (hj : 1 ≤ j ∧ j ≤ 22) {x : Byte}
    (hx : ∀ b, b < 8 → streamBit ch (8 * (j - 1) + b) = x.getLsbD b) : frameByte c ch j = x := by
  rw [frameByte, if_neg (by omega), if_pos hj.2]
  refine BitVec.eq_of_getLsbD_eq fun b hb => ?_
  rw [getLsbD_byteOfBits _ _ hb, hx b hb]

/-- A byte that starts at bit `s` of channel `i` and ends in it holds 8 bits of the channel. -/
theorem frameByte_inChannel (c : Params) (ch : ChannelVector) (j i s : Nat) (hi : i < 16 := by omega)
    (hj : 1 ≤ j ∧ j ≤ 22 := by omega) (hstart : 8 * (j - 1) = 11 * i + s := by omega) (hs : s + 8 ≤ 11 := by omega) :
    frameByte c ch j = ch[i].extractLsb' s 8 := by
  refine frameByte_eq_of_streamBits c ch hj fun b hb => ?_
  rw [hstart, Nat.add_assoc, streamBit_eq ch i (s + b) hi (by omega)]
  simp [hb]

/-- A byte that starts at bit `s` of channel `i` and passes its end holds the channel's top bits below the bottom bits of the
next. -/
theorem frameByte_straddling (c : Params) (ch : ChannelVector) (j i s m n : Nat) (hi : i + 1 < 16 := by omega)
    (hj : 1 ≤ j ∧ j ≤ 22 := by omega) (hstart : 8 * (j - 1) = 11 * i + s := by omega) (htop : s + n = 11 := by omega)
    (hmn : m + n = 8 := by omega) :
    frameByte c ch j = (ch[i + 1].extractLsb' 0 m ++ ch[i].extractLsb' s n).cast hmn := by
  refine frameByte_eq_of_streamBits c ch hj fun b hb => ?_
  rw [BitVec.getLsbD_cast, BitVec.getLsbD_append, hstart]
  split
  case isTrue hlow =>
    rw [Nat.add_assoc, streamBit_eq ch i (s + b) (by omega) (by omega)]
    simp [hlow]
  case isFalse hhigh =>
    have hnext : 11 * i + s + b = 11 * (i + 1) + (b - n) := by omega
    have hbit : b - n < m := by omega
    rw [hnext, streamBit_eq ch (i + 1) (b - n) hi (by omega)]
    simp [hbit]

/-- Settles O26: the header, then the stream byte after byte, each named by its first channel and first bit, then the trailer. -/
theorem frameBytesAreTheTable : Obligations.FrameBytesAreTheTable := by
  unfold Obligations.FrameBytesAreTheTable
  intro c ch
  refine Vector.ext fun j hj => ?_
  rw [encodeFrame_getElem]
  interval_cases j
  · rfl
  · exact frameByte_inChannel c ch 1 0 0
  · exact frameByte_straddling c ch 2 0 8 5 3
  · exact frameByte_straddling c ch 3 1 5 2 6
  · exact frameByte_inChannel c ch 4 2 2
  · exact frameByte_straddling c ch 5 2 10 7 1
  · exact frameByte_straddling c ch 6 3 7 4 4
  · exact frameByte_straddling c ch 7 4 4 1 7
  · exact frameByte_inChannel c ch 8 5 1
  · exact frameByte_straddling c ch 9 5 9 6 2
  · exact frameByte_straddling c ch 10 6 6 3 5
  · exact frameByte_inChannel c ch 11 7 3
  · exact frameByte_inChannel c ch 12 8 0
  · exact frameByte_straddling c ch 13 8 8 5 3
  · exact frameByte_straddling c ch 14 9 5 2 6
  · exact frameByte_inChannel c ch 15 10 2
  · exact frameByte_straddling c ch 16 10 10 7 1
  · exact frameByte_straddling c ch 17 11 7 4 4
  · exact frameByte_straddling c ch 18 12 4 1 7
  · exact frameByte_inChannel c ch 19 13 1
  · exact frameByte_straddling c ch 20 13 9 6 2
  · exact frameByte_straddling c ch 21 14 6 3 5
  · exact frameByte_inChannel c ch 22 15 3
  · rfl
  · rfl

end Sys2Proof.Machine
end

section
/-! The statements about ENCODE's inverse (40_frame_encoder R73, R75): the frame holds bits [10:0] of each channel and nothing
else of it. -/

namespace Sys2Proof.Machine

/-! ## What the frame reads back -/

/-- The inverse formula sums a number's bits by their weights, which is the number's remainder. -/
theorem foldr_bitWeights_eq_mod (x n init : Nat) :
    (List.range n).foldr (fun b acc => (x.testBit b).toNat * 2 ^ b + acc) init = x % 2 ^ n + init := by
  induction n generalizing init with
  | zero => simp [Nat.mod_one]
  | succ n ih =>
    rw [List.range_succ, List.foldr_append, ih, Nat.mod_pow_succ, ← Nat.toNat_testBit, List.foldr_cons, List.foldr_nil]
    ring

/-- A frame bit of ENCODE is the channel's bit that lies there. -/
theorem frameBit_encodeFrame_channel (c : Params) (ch : ChannelVector) {i b : Nat} (hi : i < 16) (hb : b < 11) :
    frameBit (encodeFrame c ch) (11 * i + b) = ch[i].getLsbD b := by
  rw [frameBit_encodeFrame c ch _ (by omega), streamBit_eq ch i b hi hb]

/-- Reading a channel back from the frame masks it. -/
theorem frameChannel_encodeFrame (c : Params) (ch : ChannelVector) {i : Nat} (hi : i < 16) :
    frameChannel (encodeFrame c ch) i = ch[i].extractLsb' 0 11 := by
  have readBits : ∀ b ∈ List.range 11, ∀ acc : Nat,
      (frameBit (encodeFrame c ch) (11 * i + b)).toNat * 2 ^ b + acc = (ch[i].toNat.testBit b).toNat * 2 ^ b + acc :=
    fun b hb acc => by
      rw [frameBit_encodeFrame_channel c ch hi (List.mem_range.mp hb), BitVec.getLsbD]
  rw [frameChannel, List.foldr_ext _ _ _ readBits, foldr_bitWeights_eq_mod]
  exact BitVec.eq_of_toNat_eq (by simp)

/-! ## What the frame depends on -/

/-- The stream holds masked values only. -/
theorem streamBit_congr {ch ch' : ChannelVector}
    (hmasked : ∀ i : Fin 16, ch[i].extractLsb' 0 11 = ch'[i].extractLsb' 0 11) {k : Nat} (hk : k < 176) :
    streamBit ch k = streamBit ch' k := by
  have hi : k / 11 < 16 := by omega
  have hb : k % 11 < 11 := by omega
  have bitOfMask := congrArg (·.getLsbD (k % 11)) (hmasked ⟨k / 11, hi⟩)
  rw [← Nat.div_add_mod k 11, streamBit_eq ch _ _ hi hb, streamBit_eq ch' _ _ hi hb]
  simpa [hb] using bitOfMask

/-- A frame byte depends on the channels through the stream. -/
theorem frameByte_congr (c : Params) {ch ch' : ChannelVector} (hstream : ∀ k, k < 176 → streamBit ch k = streamBit ch' k)
    (j : Nat) : frameByte c ch j = frameByte c ch' j := by
  unfold frameByte
  split
  · rfl
  · split
    · exact byteOfBits_congr fun b hb => hstream _ (by omega)
    · rfl

theorem encodeFrame_congr (c : Params) {ch ch' : ChannelVector}
    (hmasked : ∀ i : Fin 16, ch[i].extractLsb' 0 11 = ch'[i].extractLsb' 0 11) : encodeFrame c ch = encodeFrame c ch' :=
  Vector.ext fun j hj => by
    rw [encodeFrame_getElem _ _ _ hj, encodeFrame_getElem _ _ _ hj,
      frameByte_congr c (fun _ hk => streamBit_congr hmasked hk)]

/-- Settles O28: the frame depends on masked values only, and the inverse formula recovers each of them. -/
theorem framesAgreeExactlyOnMaskedChannels : Obligations.FramesAgreeExactlyOnMaskedChannels := by
  unfold Obligations.FramesAgreeExactlyOnMaskedChannels
  intro c ch ch'
  have inverse (v : ChannelVector) (i : Fin 16) : frameChannel (encodeFrame c v) i.val = v[i].extractLsb' 0 11 :=
    frameChannel_encodeFrame c v i.isLt
  refine ⟨⟨fun hframes i => ?_, encodeFrame_congr c⟩, inverse ch⟩
  rw [← inverse ch i, hframes, inverse ch' i]

/-! ## One full channel -/

/-- The channels of R75: only the first is not 0. -/
def fullFirstChannel : ChannelVector := #v[2047, 0, 0, 0, 0, 0, 0, 0, 0, 0, 0, 0, 0, 0, 0, 0]

theorem fullFirstChannel_first : ∀ b : Fin 11, fullFirstChannel[0].getLsbD b.val = true := by decide

theorem fullFirstChannel_later : ∀ i : Fin 15, fullFirstChannel[i.val + 1] = 0#16 := by decide

/-- Settles O29: the first 11 stream bits are those of the full channel, and every later one is a bit of a channel that is 0. -/
theorem fullFirstChannelSetsElevenBits : Obligations.FullFirstChannelSetsElevenBits := by
  unfold Obligations.FullFirstChannelSetsElevenBits
  intro c k
  change frameBit (encodeFrame c fullFirstChannel) k.val = decide (k.val ≤ 10)
  by_cases hfirst : k.val ≤ 10
  · have hk : k.val = 11 * 0 + k.val := by omega
    rw [hk, frameBit_encodeFrame_channel c fullFirstChannel (by omega) (by omega), ← hk, decide_eq_true hfirst]
    exact fullFirstChannel_first ⟨k.val, by omega⟩
  · obtain ⟨i, b, hk, hb⟩ : ∃ i b, k.val = 11 * (i + 1) + b ∧ b < 11 :=
      ⟨k.val / 11 - 1, k.val % 11, by omega, by omega⟩
    have hlater : fullFirstChannel[i + 1] = 0#16 := fullFirstChannel_later ⟨i, by omega⟩
    rw [decide_eq_false hfirst, hk, frameBit_encodeFrame_channel c fullFirstChannel (by omega) hb, hlater,
      BitVec.getLsbD_zero]

end Sys2Proof.Machine
end

section
/-! The statements about MAP (41_axis_mapper_reference R80 to R88): its value at each kind of source range, the bounds of the
interpolated quotient and of its rounding, and what the mirror does. -/

namespace Sys2Proof.Machine

/-! ## MAP at each kind of source range -/

theorem axisMap_of_degenerate (value : Nat) {k : Calibration} (h : k.smin = k.smax) :
    axisMap value k = some (toHalf (roundHalfAway (k.tmin + k.tmax) 2)) := if_pos h

theorem axisMap_of_reversed (value : Nat) {k : Calibration} (h : k.smax < k.smin) : axisMap value k = none := by
  rw [axisMap, if_neg (by omega), if_pos h]

/-- The interpolated target value, times the width of the source range (41_axis_mapper_reference R84). -/
def mapNumerator (x : Int) (k : Calibration) : Int :=
  k.tmin * (k.smax - k.smin) + (x - k.smin) * (k.tmax - k.tmin)

theorem axisMap_of_lt (value : Nat) {k : Calibration} (h : k.smin < k.smax) :
    axisMap value k = some (toHalf (roundHalfAway (mapNumerator (mapSample value k) k) (k.smax - k.smin))) := by
  rw [axisMap, if_neg (by omega), if_neg (by omega)]
  rfl

/-! ## The sample -/

theorem mapSample_mem (value : Int) {k : Calibration} (h : k.smin ≤ k.smax) :
    k.smin ≤ mapSample value k ∧ mapSample value k ≤ k.smax := clampInt_range _ h

theorem mapSample_inverted (value : Int) (k : Calibration) :
    mapSample value { k with invert := true } = mapSample (k.smin + k.smax - value) { k with invert := false } := rfl

/-- Without the invert bit, a sample inside the source range is taken as it is. -/
theorem mapSample_of_mem {value : Int} {k : Calibration} (hi : k.invert = false) (hmin : k.smin ≤ value)
    (hmax : value ≤ k.smax) : mapSample value k = value := by
  rw [mapSample, hi]
  exact clampInt_of_mem hmin hmax

/-- MAP reads the sample and the invert bit through `mapSample` only. -/
theorem axisMap_congr {v v' : Nat} {k : Calibration} {b b' : Bool}
    (h : mapSample v { k with invert := b } = mapSample v' { k with invert := b' }) :
    axisMap v { k with invert := b } = axisMap v' { k with invert := b' } := by
  simp only [axisMap, Int.ofNat_eq_natCast, h]

/-! ## The interpolation and its rounding -/

/-- The interpolated value lies between the ends of the target range: its distances to them are products of two
distances that are not negative. -/
theorem mapNumerator_mem {x : Int} {k : Calibration} (hmin : k.smin ≤ x) (hmax : x ≤ k.smax) (ht : k.tmin ≤ k.tmax) :
    k.tmin * (k.smax - k.smin) ≤ mapNumerator x k ∧ mapNumerator x k ≤ k.tmax * (k.smax - k.smin) := by
  have aboveMin : mapNumerator x k - k.tmin * (k.smax - k.smin) = (x - k.smin) * (k.tmax - k.tmin) := by
    rw [mapNumerator]; ring
  have belowMax : k.tmax * (k.smax - k.smin) - mapNumerator x k = (k.smax - x) * (k.tmax - k.tmin) := by
    rw [mapNumerator]; ring
  have ht' : 0 ≤ k.tmax - k.tmin := by omega
  have h1 := Int.mul_nonneg (Int.sub_nonneg_of_le hmin) ht'
  have h2 := Int.mul_nonneg (Int.sub_nonneg_of_le hmax) ht'
  omega

/-- With equal ranges the interpolation is the identity. -/
theorem mapNumerator_of_equalRanges (x lo hi : Int) (b : Bool) : mapNumerator x ⟨lo, hi, lo, hi, b⟩ = x * (hi - lo) := by
  rw [mapNumerator]; ring

/-- Rounding stays between two integers that are not negative. -/
theorem roundHalfAway_mem {num den lo hi : Int} (hden : 0 < den) (h0 : 0 ≤ lo) (hlo : lo * den ≤ num)
    (hhi : num ≤ hi * den) : lo ≤ roundHalfAway num den ∧ roundHalfAway num den ≤ hi := by
  have hnum : 0 ≤ num := (Int.mul_nonneg h0 hden.le).trans hlo
  rw [roundHalfAway, if_pos hnum]
  constructor
  · rw [Int.le_ediv_iff_mul_le (by omega)]
    linarith
  · rw [← Int.lt_add_one_iff, Int.ediv_lt_iff_lt_mul (by omega)]
    linarith

/-- A whole number that is not negative is its own rounding. -/
theorem roundHalfAway_mul_self {y den : Int} (hden : 0 < den) (hy : 0 ≤ y) : roundHalfAway (y * den) den = y := by
  obtain ⟨hlo, hhi⟩ := roundHalfAway_mem hden hy le_rfl le_rfl
  exact le_antisymm hhi hlo

/-- A value of 16 bits passes the last clamp unchanged (41_axis_mapper_reference R85). -/
theorem toHalf_toNat_of_mem {y : Int} (h0 : 0 ≤ y) (h1 : y ≤ 65535) : ((toHalf y).toNat : Int) = y := by
  rw [toHalf_toNat, clampInt_of_mem h0 h1]

theorem clampInt_eq_min_max (a : Int) {lo hi : Int} (h : lo ≤ hi) : clampInt a lo hi = min hi (max lo a) := by
  unfold clampInt
  split
  · omega
  · split <;> omega

/-- The rounded half of a sum, clamped to 16 bits: a negative half rounds the other way, and both roundings are clamped to 0. -/
theorem clampInt_roundHalfAway_two (sum : Int) :
    clampInt (roundHalfAway sum 2) 0 65535 = min 65535 (max 0 ((sum + 1) / 2)) := by
  rw [clampInt_eq_min_max _ (by decide), roundHalfAway]
  split <;> omega

/-! ## The statements -/

/-- Settles O59: the interpolated value lies in the target range, rounding keeps it there, and the last clamp leaves it. -/
theorem mapStaysInTheTargetRange : Obligations.MapStaysInTheTargetRange := by
  unfold Obligations.MapStaysInTheTargetRange
  intro value k hs h0 ht h1
  obtain ⟨hmin, hmax⟩ := mapSample_mem value hs.le
  obtain ⟨hlo, hhi⟩ := mapNumerator_mem hmin hmax ht
  obtain ⟨rlo, rhi⟩ := roundHalfAway_mem (Int.sub_pos_of_lt hs) h0 hlo hhi
  refine ⟨_, axisMap_of_lt value hs, ?_⟩
  rw [toHalf_toNat_of_mem (h0.trans rlo) (rhi.trans h1)]
  exact ⟨rlo, rhi⟩

/-- With equal ranges MAP gives a 16-bit sample inside them back. -/
theorem axisMap_of_equalRanges {v : Nat} {lo hi : Int} (h : lo < hi) (hlo : lo ≤ v) (hhi : (v : Int) ≤ hi)
    (hv : v ≤ 65535) : axisMap v ⟨lo, hi, lo, hi, false⟩ = some (BitVec.ofNat 16 v) := by
  rw [axisMap_of_lt v h, mapSample_of_mem rfl hlo hhi, mapNumerator_of_equalRanges,
    roundHalfAway_mul_self (Int.sub_pos_of_lt h) (Int.natCast_nonneg v), toHalf,
    clampInt_of_mem (Int.natCast_nonneg v) (by omega), Int.toNat_natCast]

/-- Settles O60: inverting is taking the mirrored sample, and equal ranges give the sample back. -/
theorem mapInvertsByMirroringAndKeepsTheIdentity : Obligations.MapInvertsByMirroringAndKeepsTheIdentity := by
  unfold Obligations.MapInvertsByMirroringAndKeepsTheIdentity
  refine ⟨fun v v' k _ _ hmirror => axisMap_congr ?_, fun v lo hi => axisMap_of_equalRanges⟩
  rw [mapSample_inverted, hmirror]

/-- Settles O58, by MAP's value at a degenerate and at a reversed source range. -/
theorem mapOfDegenerateAndReversedRanges : Obligations.MapOfDegenerateAndReversedRanges := by
  unfold Obligations.MapOfDegenerateAndReversedRanges
  refine ⟨fun value k h => ⟨_, axisMap_of_degenerate value h, ?_⟩, fun value k => axisMap_of_reversed value⟩
  rw [toHalf_toNat, clampInt_roundHalfAway_two]

end Sys2Proof.Machine
end

section
/-! The statements about the report forms (42_arbitration_resolver R89 to R112). The eight forms with ERR clear are one form over
their two events, so that its word, its meaning and what it leaves are said once; RPT.ERR is the other case of every statement. -/

namespace Sys2Proof.Machine

/-! ## APPLY -/

/-- The direction event that field DIRREQ of a word selects (30_encoding R50, 42_arbitration_resolver R90). -/
theorem applyDirection_dirreq (fwd : Bool) (w : ReportWord) :
    applyDirection fwd w.dirreq =
      if w.extractLsb' 32 2 = 0b00#2 then fwd
      else if w.extractLsb' 32 2 = 0b01#2 then true
      else if w.extractLsb' 32 2 = 0b10#2 then false
      else !fwd := by
  rw [← w.dirreq_bits]
  cases w.dirreq <;> rfl

/-- Toggles undo themselves: an event of the armed bit always, and one of the direction where it is a toggle or none. -/
theorem applyEvents_applyEvents_of_toggle (own : Intent) (armt : Bool) {dir : DirRequest} (hdir : dir = .none ∨ dir = .toggle) :
    applyEvents (applyEvents own armt dir) armt dir = own := by
  have harmed : (applyEvents (applyEvents own armt dir) armt dir).armed = own.armed := by
    cases armt
    · rfl
    · exact Bool.not_not _
  have hfwd : (applyEvents (applyEvents own armt dir) armt dir).fwd = own.fwd := by
    rcases hdir with rfl | rfl
    · rfl
    · exact Bool.not_not _
  exact congrArg₂ Intent.mk hfwd harmed

/-! ## What a report leaves -/

section
variable (s : State) (p : Port) (new : Intent) (h v : Half)

@[simp] theorem State.afterReport_intent : (s.afterReport p new h v).intent p = new := by cases p <;> rfl

@[simp] theorem State.afterReport_intent_other : (s.afterReport p new h v).intent p.other = s.intent p.other := by
  cases p <;> rfl

theorem State.afterReport_qc :
    (s.afterReport p new h v).qc =
      if new.armed = true ∧ (s.intent p.other).armed = false ∧ s.estate ≠ .failed then
        s.qc ++ [commandWord true new.fwd v h]
      else s.qc := by
  cases p <;> rfl

theorem State.afterReport_frame :
    s.afterReport p new h v =
      { s with
        intentL := (s.afterReport p new h v).intentL
        intentR := (s.afterReport p new h v).intentR
        qc := (s.afterReport p new h v).qc } := by
  cases p <;> rfl

/-- A report that leaves a disarmed side's intent as it was leaves everything (42_arbitration_resolver R93). -/
theorem State.afterReport_self_of_disarmed (hp : (s.intent p).armed = false) : s.afterReport p (s.intent p) h v = s := by
  have hqc := s.afterReport_qc p (s.intent p) h v
  rw [if_neg (by simp [hp])] at hqc
  rw [State.afterReport_frame, hqc]
  cases p <;> rfl
end

/-! ## The meaning of a report form -/

section
variable (armt : Bool) (dir : DirRequest) (p : Port) (h v : Half)

theorem decode_eventWord : decode p (reportWord (eventBits armt dir) h v) = .ofEvents armt dir p h v := by
  rw [decode_of_not_err (reportWord_eventBits_err armt dir h v)]
  simp

theorem exec_ofEvents (s : State) : exec (.ofEvents armt dir p h v) s = .next (reportStep p armt dir h v s) := by
  cases armt <;> cases dir <;> rfl

theorem exec_ofEvents_eq_afterReport (s : State) :
    exec (.ofEvents armt dir p h v) s = .next (s.afterReport p (applyEvents (s.intent p) armt dir) h v) := by
  rw [exec_ofEvents, reportStep_eq_afterReport]

/-- The word and the meaning of the form with the events `armt` and `dir`: the eight forms of 42_arbitration_resolver R93 to R100. -/
theorem eventWord_means_afterReport (s : State) :
    decode p (reportWord (eventBits armt dir) h v) = .ofEvents armt dir p h v ∧
      exec (.ofEvents armt dir p h v) s = .next (s.afterReport p (applyEvents (s.intent p) armt dir) h v) :=
  ⟨decode_eventWord armt dir p h v, exec_ofEvents_eq_afterReport armt dir p h v s⟩
end

theorem exec_rptErr (p : Port) (ignored : BitVec 35) (s : State) : exec (.rptErr p ignored) s = .next s := rfl

theorem eq_of_exec_rptErr {p : Port} {ignored : BitVec 35} {s t : State} (he : exec (.rptErr p ignored) s = .next t) : t = s :=
  (Host.Outcome.next.inj he).symm

section
variable {armt : Bool} {dir : DirRequest} {p : Port} {h v : Half} {s t : State}

theorem eq_of_exec_ofEvents (he : exec (.ofEvents armt dir p h v) s = .next t) :
    t = s.afterReport p (applyEvents (s.intent p) armt dir) h v :=
  Host.Outcome.next.inj (he.symm.trans (exec_ofEvents_eq_afterReport armt dir p h v s))

theorem intent_of_exec_ofEvents (he : exec (.ofEvents armt dir p h v) s = .next t) :
    t.intent p = applyEvents (s.intent p) armt dir := by
  rw [eq_of_exec_ofEvents he, State.afterReport_intent]

theorem intent_other_of_exec_ofEvents (he : exec (.ofEvents armt dir p h v) s = .next t) :
    t.intent p.other = s.intent p.other := by
  rw [eq_of_exec_ofEvents he, State.afterReport_intent_other]

/-- What a report makes of QC, told from the intents that it leaves (42_arbitration_resolver R104, 43_command_path R133). -/
theorem qc_of_exec_ofEvents (he : exec (.ofEvents armt dir p h v) s = .next t) :
    t.qc =
      if (t.intent p).armed = true ∧ (t.intent p.other).armed = false ∧ s.estate ≠ .failed then
        s.qc ++ [commandWord true (t.intent p).fwd v h]
      else s.qc := by
  rw [intent_of_exec_ofEvents he, intent_other_of_exec_ofEvents he, eq_of_exec_ofEvents he]
  exact s.afterReport_qc p _ h v

/-- A report of toggles only, applied twice, leaves the intent of its port. -/
theorem intent_of_exec_toggle_twice {h' v' : Half} {u : State} (hdir : dir = .none ∨ dir = .toggle)
    (h₁ : exec (.ofEvents armt dir p h v) s = .next t) (h₂ : exec (.ofEvents armt dir p h' v') t = .next u) :
    u.intent p = s.intent p := by
  rw [intent_of_exec_ofEvents h₂, intent_of_exec_ofEvents h₁, applyEvents_applyEvents_of_toggle _ _ hdir]
end

/-! ## The eight forms with ERR clear -/

/-- Settles O6: no event, so the own side's intent is its new one; disarmed, it leaves QC too. -/
theorem axisOnlyReportLeavesTheIntent : Obligations.AxisOnlyReportLeavesTheIntent := by
  unfold Obligations.AxisOnlyReportLeavesTheIntent
  intro p h v s
  obtain ⟨hdecode, hexec⟩ := eventWord_means_afterReport false .none p h v s
  refine ⟨hdecode, hexec, fun hp => hexec.trans (congrArg Host.Outcome.next ?_)⟩
  exact s.afterReport_self_of_disarmed p h v hp

/-- Settles O7: the direction event is Set Forward. -/
theorem setForwardReportSetsForward : Obligations.SetForwardReportSetsForward := by
  unfold Obligations.SetForwardReportSetsForward
  exact eventWord_means_afterReport false .setForward

/-- Settles O8: the direction event is Set Reverse. -/
theorem setReverseReportSetsReverse : Obligations.SetReverseReportSetsReverse := by
  unfold Obligations.SetReverseReportSetsReverse
  exact eventWord_means_afterReport false .setReverse

/-- Settles O9: the direction event is the toggle. -/
theorem toggleDirectionReportInvertsDirection : Obligations.ToggleDirectionReportInvertsDirection := by
  unfold Obligations.ToggleDirectionReportInvertsDirection
  exact eventWord_means_afterReport false .toggle

/-- Settles O10: the armed event alone. -/
theorem toggleArmedReportInvertsArmed : Obligations.ToggleArmedReportInvertsArmed := by
  unfold Obligations.ToggleArmedReportInvertsArmed
  exact eventWord_means_afterReport true .none

/-- Settles O11: the armed event with Set Forward. -/
theorem toggleArmedSetForwardReportDoesBoth : Obligations.ToggleArmedSetForwardReportDoesBoth := by
  unfold Obligations.ToggleArmedSetForwardReportDoesBoth
  exact eventWord_means_afterReport true .setForward

/-- Settles O12: the armed event with Set Reverse. -/
theorem toggleArmedSetReverseReportDoesBoth : Obligations.ToggleArmedSetReverseReportDoesBoth := by
  unfold Obligations.ToggleArmedSetReverseReportDoesBoth
  exact eventWord_means_afterReport true .setReverse

/-- Settles O13: the armed event with the direction's toggle. -/
theorem toggleArmedToggleDirectionReportDoesBoth : Obligations.ToggleArmedToggleDirectionReportDoesBoth := by
  unfold Obligations.ToggleArmedToggleDirectionReportDoesBoth
  exact eventWord_means_afterReport true .toggle

/-! ## RPT.ERR and REPORT_STEP of any word -/

/-- With a report to take, the core's part is its pop and its form. -/
theorem corePart_of_nextReport {pick p : Port} {w : ReportWord} {s : State} (hn : s.nextReport pick = some (p, w)) :
    corePart pick s = exec (decode p w) (s.popReport p) := by
  rw [corePart, hn]

/-- Settles O14: RPT.ERR answers the state it is given, and in a cycle that is the state with its word popped. -/
theorem errorReportOnlyLeavesItsFifo : Obligations.ErrorReportOnlyLeavesItsFifo := by
  unfold Obligations.ErrorReportOnlyLeavesItsFifo
  refine ⟨fun p ignored s => ⟨decode_encode (.rptErr p ignored), exec_rptErr p ignored s⟩, ?_⟩
  intro s i p w hr he hn herr
  obtain ⟨u, hu, hstep⟩ := step_of_coreEdge hr he
  rw [← s.advance_nextReport] at hn
  rw [corePart_of_nextReport hn, decode_of_err herr] at hu
  rw [hstep, eq_of_exec_rptErr hu]

/-- REPORT_STEP with the mix of its snapshot named (42_arbitration_resolver R92). -/
theorem reportStep_eq_of_mixed (p : Port) (armt : Bool) (dir : DirRequest) (h v : Half) (s : State) {new : Intent} {mixed : Mixed}
    (hnew : applyEvents (s.intent p) armt dir = new) (hmixed : mixFor p new (s.intent p.other) = mixed) :
    reportStep p armt dir h v s =
      if gate new (s.intent p.other) = true ∧ s.estate ≠ .failed then
        ({ s with qc := s.qc ++ [commandWord mixed.armed mixed.fwd v h] } : State).setIntent p new
      else s.setIntent p new := by
  subst hnew hmixed
  rw [reportStep, State.offerCommand_eq]
  split <;> rfl

/-- Settles O15: bit 35 decides between RPT.ERR and the events; the hypotheses say that `new` is APPLY and `mixed` is MIX of the
snapshot. -/
theorem reportStepFollowsTheWordsBits : Obligations.ReportStepFollowsTheWordsBits := by
  unfold Obligations.ReportStepFollowsTheWordsBits
  intro p w s new mixed harmed hfwd hleft hright
  split
  case isTrue herr => rw [decode_of_err herr, exec_rptErr]
  case isFalse herr =>
    have hnew : applyEvents (s.intent p) w.armt w.dirreq = new :=
      congrArg₂ Intent.mk ((applyDirection_dirreq _ w).trans hfwd.symm) harmed.symm
    have hmixed : mixFor p new (s.intent p.other) = mixed := by
      cases p
      · exact (hleft rfl).symm
      · exact (hright rfl).symm
    rw [decode_of_not_err (Bool.eq_false_of_not_eq_true herr), exec_ofEvents, reportStep_eq_of_mixed p _ _ _ _ s hnew hmixed]
    rfl

/-! ## What every report form keeps to -/

/-- Settles O16, by the total equation of `exec`. -/
theorem everyReportFormCompletes : Obligations.EveryReportFormCompletes := by
  unfold Obligations.EveryReportFormCompletes
  exact fun i s => ⟨_, exec_total i s⟩

/-- Settles O17: RPT.ERR leaves the state, and the other forms keep the frame of `State.afterReport`. -/
theorem reportsTouchOnlyTheirOwnSideAndTheQueue : Obligations.ReportsTouchOnlyTheirOwnSideAndTheQueue := by
  unfold Obligations.ReportsTouchOnlyTheirOwnSideAndTheQueue
  intro i s t he
  obtain ⟨p, ignored, rfl⟩ | ⟨armt, dir, p, h, v, rfl⟩ := i.eq_rptErr_or_ofEvents
  · obtain rfl := eq_of_exec_rptErr he
    exact ⟨rfl, rfl, [], by simp⟩
  · rw [Instr.ofEvents_port]
    refine ⟨?_, intent_other_of_exec_ofEvents he, ?_⟩
    · rw [eq_of_exec_ofEvents he]
      exact s.afterReport_frame p _ h v
    · rw [qc_of_exec_ofEvents he]
      split
      · exact ⟨[_], by simp, rfl⟩
      · exact ⟨[], by simp⟩

/-- Settles O18: APPLY computes each bit from that bit and its own event. -/
theorem armedAndDirectionAreIndependent : Obligations.ArmedAndDirectionAreIndependent := by
  unfold Obligations.ArmedAndDirectionAreIndependent
  intro i s s' t t' he he'
  obtain ⟨p, ignored, rfl⟩ | ⟨armt, dir, p, h, v, rfl⟩ := i.eq_rptErr_or_ofEvents
  · obtain rfl := eq_of_exec_rptErr he
    obtain rfl := eq_of_exec_rptErr he'
    exact ⟨id, id⟩
  · rw [Instr.ofEvents_port, intent_of_exec_ofEvents he, intent_of_exec_ofEvents he']
    exact ⟨congrArg fun b => if armt then !b else b, congrArg (applyDirection · dir)⟩

/-- Settles O19: each of the three forms is made of toggles. -/
theorem twoTogglesRestoreTheIntent : Obligations.TwoTogglesRestoreTheIntent := by
  unfold Obligations.TwoTogglesRestoreTheIntent
  intro p h v h' v' s t u
  exact ⟨intent_of_exec_toggle_twice (armt := true) (.inl rfl), intent_of_exec_toggle_twice (armt := false) (.inr rfl),
    intent_of_exec_toggle_twice (armt := true) (.inr rfl)⟩

/-! ## MIX -/

theorem mix_armed (l r : Intent) : (mix l r).armed = (l.armed || r.armed) := rfl

theorem mix_comm (a b : Intent) : mix a b = mix b a := by
  have hfwd : (mix a b).fwd = (mix b a).fwd := by
    rw [mix_fwd, mix_fwd]
    cases a.armed <;> cases b.armed <;> simp [Bool.or_comm]
  exact congrArg₂ Mixed.mk (Bool.or_comm _ _) hfwd

/-- Settles O20, by the cases of `mix_fwd`. -/
theorem mixFollowsThePolicy : Obligations.MixFollowsThePolicy := by
  unfold Obligations.MixFollowsThePolicy
  intro l r
  rw [mix_fwd]
  refine ⟨mix_armed l r, ?agreeing, ?disagreeing, ?leftOnly, ?rightOnly, ?neither⟩
  case agreeing =>
    rintro ⟨hl, hr, hfwd⟩
    simp [hl, hr, hfwd]
  case disagreeing =>
    rintro ⟨hl, hr, hfwd⟩
    simp [hl, hr, Bool.eq_not_of_ne hfwd]
  case leftOnly =>
    rintro ⟨hl, hr⟩
    simp [hl, hr]
  case rightOnly =>
    rintro ⟨hl, hr⟩
    simp [hl, hr]
  case neither =>
    rintro ⟨hl, hr⟩
    simp [hl, hr]

/-- Settles O21, by the direction of `mix_fwd` and the OR of the armed bits. -/
theorem mixIsSymmetric : Obligations.MixIsSymmetric := by
  unfold Obligations.MixIsSymmetric
  intro a b
  refine ⟨mix_comm a b, ?_, by rw [mix_armed, Bool.or_eq_false_iff]⟩
  rintro ⟨ha, hb⟩
  rw [mix_fwd]
  simp [ha, hb]

/-! ## The commands -/

/-- Settles O22: RPT.ERR pushes nothing, and the other forms push the command of their events and axes when the gate is 1. -/
theorem pushedCommandIsTheDrivers : Obligations.PushedCommandIsTheDrivers := by
  unfold Obligations.PushedCommandIsTheDrivers
  intro i s t c he hqc
  obtain ⟨p, ignored, rfl⟩ | ⟨armt, dir, p, h, v, rfl⟩ := i.eq_rptErr_or_ofEvents
  · obtain rfl := eq_of_exec_rptErr he
    simp at hqc
  · rw [qc_of_exec_ofEvents he] at hqc
    rw [Instr.ofEvents_port, encode_ofEvents]
    split at hqc
    case isTrue hgate =>
      obtain ⟨hown, hother, -⟩ := hgate
      obtain rfl : commandWord true (t.intent p).fwd v h = c := by simpa using hqc
      exact ⟨commandArmed_commandWord _ _ v h, commandFwd_commandWord _ _ v h,
        (commandH_commandWord _ _ v h).trans (reportWord_h _ h v).symm,
        (commandV_commandWord _ _ v h).trans (reportWord_v _ h v).symm, hown, hother⟩
    case isFalse => simp at hqc

/-- Settles O23: bit 35 of its word tells RPT.ERR from the other forms, whose push is `qc_of_exec_ofEvents`. -/
theorem commandsComeOnlyFromTheOneArmedSide : Obligations.CommandsComeOnlyFromTheOneArmedSide := by
  unfold Obligations.CommandsComeOnlyFromTheOneArmedSide
  intro i s t he
  obtain ⟨p, ignored, rfl⟩ | ⟨armt, dir, p, h, v, rfl⟩ := i.eq_rptErr_or_ofEvents
  · have herr : (encode (.rptErr p ignored)).getLsbD 35 = true := errWord_err ignored
    rw [if_neg (by simp [herr]), eq_of_exec_rptErr he]
  · have herr : (encode (.ofEvents armt dir p h v)).getLsbD 35 = false := by
      rw [encode_ofEvents]
      exact reportWord_eventBits_err armt dir h v
    have hqc := qc_of_exec_ofEvents he
    rw [Instr.ofEvents_port]
    split
    case isTrue hgate =>
      obtain ⟨hown, hother, hest, -⟩ := hgate
      exact ⟨_, hqc.trans (if_pos ⟨hown, hother, hest⟩)⟩
    case isFalse hgate =>
      exact hqc.trans (if_neg fun ⟨hown, hother, hest⟩ => hgate ⟨hown, hother, hest, herr⟩)

end Sys2Proof.Machine
end

section
/-! The statements about the command path (43_command_path R115 to R134): EXPAND, the emitter's cycle in each of its states, runs
in which the sink accepts or does not answer, and the order in which commands become frames. An edge of `clk` is the core's
part, which to the emitter is an append to QC, and then the effect of a decision with one equation for each emitter state. -/

namespace Sys2Proof.Machine

/-! ## EXPAND -/

theorem expand_commandWord (c : Params) (armed fwd : Bool) (v h : Half) :
    expand c (commandWord armed fwd v h) =
      #v[h, c.fill, v, c.fill, threshold c armed, threshold c fwd, c.aux, c.aux,
        c.fill, c.fill, c.fill, c.fill, c.fill, c.fill, c.fill, c.fill] := by
  simp only [expand, commandH_commandWord, commandV_commandWord, commandArmed_commandWord, commandFwd_commandWord]

/-- Settles O30: the fields of the command word read back, then channel by channel. -/
theorem expandFillsTheChannels : Obligations.ExpandFillsTheChannels := by
  unfold Obligations.ExpandFillsTheChannels
  intro c armed fwd v h i
  rw [show BitVec.ofBool armed ++ BitVec.ofBool fwd ++ v ++ h = commandWord armed fwd v h from rfl, expand_commandWord]
  fin_cases i <;> rfl

/-! ## The emitter's decision and its effect, by the emitter's state -/

section
variable (r e : Bool) {s : State}

theorem emitterAction_of_idle_nil (hs : s.estate = .idle) (hq : s.qc = []) : emitterAction r e s = .hold := by
  simp [emitterAction, hs, hq]

theorem emitterAction_of_idle_cons {c : CommandWord} {rest : List CommandWord} (hs : s.estate = .idle) (hq : s.qc = c :: rest) :
    emitterAction r e s = .load c := by
  simp [emitterAction, hs, hq]

theorem emitterAction_of_send (hs : s.estate = .send) :
    emitterAction r e s = if e then .fail else if r then .accept else .hold := by
  simp [emitterAction, hs]

theorem emitterAction_of_failed (hs : s.estate = .failed) :
    emitterAction r e s = if s.qc = [] then .hold else .discard := by
  cases hq : s.qc <;> simp [emitterAction, hs, hq]

/-- 43_command_path R134: outside SEND the decision does not read the sink's answer. -/
theorem emitterAction_congr_of_not_send (r' e' : Bool) (hs : s.estate ≠ .send) : emitterAction r e s = emitterAction r' e' s := by
  cases he : s.estate with
  | idle => simp [emitterAction, he]
  | send => exact absurd he hs
  | failed => rw [emitterAction_of_failed r e he, emitterAction_of_failed r' e' he]
end

section
variable (u : State)
@[simp] theorem commitEmitter_hold : commitEmitter .hold u = u := rfl
@[simp] theorem commitEmitter_load (c : CommandWord) : commitEmitter (.load c) u = u.popCommand.loadFrame c := rfl
@[simp] theorem commitEmitter_accept : commitEmitter .accept u = u.acceptByte := rfl
@[simp] theorem commitEmitter_fail : commitEmitter .fail u = u.raiseTxFail := rfl
@[simp] theorem commitEmitter_discard : commitEmitter .discard u = u.popCommand := rfl
end

theorem State.txValid_eq_true_iff (s : State) : s.txValid = true ↔ s.estate = .send := decide_eq_true_iff

theorem State.txValid_eq_false_iff (s : State) : s.txValid = false ↔ s.estate ≠ .send := decide_eq_false_iff_not

theorem State.stalled_iff (s : State) : s.stalled = true ↔ s.params.cmdDepth ≤ s.qc.length ∧ s.estate ≠ .failed := by
  simp [State.stalled, State.commandFull]

/-! ## What the emitter and the queue see of a step -/

/-- To the emitter `t` is `s`, but for the commands `pushed` at the tail of QC (43_command_path R114). -/
structure State.AppendsCommands (s t : State) (pushed : List CommandWord) : Prop where
  qc : t.qc = s.qc ++ pushed
  estate : t.estate = s.estate
  idx : t.idx = s.idx
  frameBuf : t.frameBuf = s.frameBuf
  delivered : t.delivered = s.delivered
  params : t.params = s.params

/-- The core's part of an edge of `clk` appends at most one command, and none in FAILED (43_command_path R133); the emitter's decision
and the crossing follow it. -/
theorem step_of_coreEdge_appends {s : State} {i : CoreInputs} (hr : s.running) (he : s.event = .coreEdge i) :
    ∃ u pushed, s.AppendsCommands u pushed ∧ pushed.length ≤ 1 ∧ (s.estate = .failed → pushed = []) ∧
      step s = .next ((commitEmitter (emitterAction i.txReady i.txErr s) u).showWords i) := by
  obtain ⟨u, hu, hstep⟩ := step_of_coreEdge hr he
  obtain ⟨pushed, hlen, hqc, hest, hidx, hbuf, hdel, hpar, -, -, -, hfailed, -⟩ := corePart_queue hu
  exact ⟨u, pushed, ⟨hqc, hest, hidx, hbuf, hdel, hpar⟩, hlen, hfailed, hstep⟩

/-- Between the assertions of `rst_n`, only an edge of `clk` in a running block changes what the emitter sees. -/
theorem step_coreEdge_or_appends_nil {s t : State} (ha : s.event ≠ .resetAsserts) (h : step s = .next t) :
    (s.running ∧ ∃ i, s.event = .coreEdge i) ∨ s.AppendsCommands t [] := by
  rcases step_cases h with ⟨he, -⟩ | ⟨-, -, rfl⟩ | ⟨-, -, rfl⟩ | ⟨-, -, rfl⟩ | ⟨-, p, i, -, -, rfl⟩ |
    ⟨hr, i, he, hl, -⟩ | ⟨-, i, -, -, rfl⟩
  · exact absurd he ha
  · exact .inr ⟨by simp, rfl, rfl, rfl, rfl, rfl⟩
  · exact .inr ⟨by simp, rfl, rfl, rfl, rfl, rfl⟩
  · exact .inr ⟨by simp, rfl, rfl, rfl, rfl, rfl⟩
  · exact .inr ⟨by simp, by simp, by simp, by simp, by simp, by simp⟩
  · exact .inl ⟨⟨hr, hl⟩, i, he⟩
  · refine .inr ?_
    split <;> exact ⟨by simp, rfl, rfl, rfl, rfl, rfl⟩

theorem State.event_of_script {s : State} {e : EnvEvent} {rest : List EnvEvent} (h : s.script = e :: rest) : s.event = e := by
  simp [State.event, h]

/-- An edge of `clk` in the script is taken from it and leaves a running block running. -/
theorem step_coreEdge_running {s t : State} {i : CoreInputs} {rest : List EnvEvent} (hr : s.running)
    (hscript : s.script = .coreEdge i :: rest) (h : step s = .next t) : t.running ∧ t.script = rest := by
  obtain ⟨u, hu, hstep⟩ := step_of_coreEdge hr (State.event_of_script hscript)
  cases h.symm.trans hstep
  obtain ⟨-, -, -, -, -, -, -, -, hrl, hcl, hcore, -⟩ := corePart_queue hu
  obtain ⟨-, -, -, -, -, -, hrl', hcl', hemitter⟩ := commitEmitter_ports (emitterAction i.txReady i.txErr s) u
  have htail : s.advance.script = rest := congrArg List.tail hscript
  exact ⟨⟨(hrl'.trans hrl).trans hr.1, (hcl'.trans hcl).trans hr.2⟩, (hemitter.trans hcore).trans htail⟩

/-! ## One cycle in each emitter state -/

/-- Settles O31: with QC empty the decision is to hold, and else to load its head, behind which the core's push stands. -/
theorem idleEmitterLoadsTheOldestCommand : Obligations.IdleEmitterLoadsTheOldestCommand := by
  unfold Obligations.IdleEmitterLoadsTheOldestCommand
  intro s i hr he hs
  obtain ⟨u, pushed, hu, hlen, -, hstep⟩ := step_of_coreEdge_appends hr he
  refine ⟨s.txValid_eq_false_iff.2 (by simp [hs]), _, hstep, ?_⟩
  cases hq : s.qc with
  | nil =>
    rw [emitterAction_of_idle_nil _ _ hs hq]
    exact ⟨hu.delivered, pushed, hlen, hu.estate.trans hs, hu.idx, hu.frameBuf, by simp [hu.qc, hq]⟩
  | cons c rest =>
    rw [emitterAction_of_idle_cons _ _ hs hq]
    exact ⟨hu.delivered, pushed, hlen, rfl, rfl, by simp [hu.params], by simp [hu.qc, hq]⟩

/-- Settles O32: the three decisions in SEND; an accepted byte is `State.acceptByte_eq`. -/
theorem sendingEmitterHandsOverOneByte : Obligations.SendingEmitterHandsOverOneByte := by
  unfold Obligations.SendingEmitterHandsOverOneByte
  intro s i hr he hs
  have hvalid := s.txValid_eq_true_iff.2 hs
  obtain ⟨u, pushed, hu, hlen, -, hstep⟩ := step_of_coreEdge_appends hr he
  refine ⟨hvalid, by rw [State.txData, if_pos hvalid]; rfl, _, hstep, ?_⟩
  rw [emitterAction_of_send _ _ hs]
  cases herr : i.txErr with
  | true => exact ⟨hu.frameBuf, ⟨pushed, hlen, hu.qc⟩, rfl, hu.idx, hu.delivered⟩
  | false =>
    cases hready : i.txReady with
    | false => exact ⟨hu.frameBuf, ⟨pushed, hlen, hu.qc⟩, hu.estate.trans hs, hu.idx, hu.delivered⟩
    | true =>
      obtain ⟨hdel, hbuf, hqc, -, -, -, -, hnext⟩ := u.acceptByte_eq
      have hbyte : u.currentByte = s.frameBuf[s.idx] := by simp only [State.currentByte, hu.frameBuf, hu.idx]
      rw [hbyte, hu.delivered] at hdel
      rw [hu.idx, hu.estate, hs] at hnext
      exact ⟨hbuf.trans hu.frameBuf, ⟨pushed, hlen, hqc.trans hu.qc⟩, hdel, hnext⟩

/-- Settles O33: nothing is pushed, and the decision is to discard the head of QC wherever there is one. -/
theorem failedEmitterDrainsTheQueue : Obligations.FailedEmitterDrainsTheQueue := by
  unfold Obligations.FailedEmitterDrainsTheQueue
  intro s i hr he hs
  obtain ⟨u, pushed, hu, -, hnone, hstep⟩ := step_of_coreEdge_appends hr he
  have hqc : u.qc = s.qc := by simpa [hnone hs] using hu.qc
  refine ⟨by simp [State.stalled, hs], s.txValid_eq_false_iff.2 (by simp [hs]), _, hstep, ?_⟩
  rw [emitterAction_of_failed _ _ hs]
  split
  case isTrue hq => exact ⟨hu.estate.trans hs, by simp [hqc, hq], hu.delivered, hu.idx, hu.frameBuf⟩
  case isFalse => exact ⟨hu.estate.trans hs, congrArg List.tail hqc, hu.delivered, hu.idx, hu.frameBuf⟩

/-- Settles O34: an edge of `clk` in FAILED only drains QC, and every other event but the assertion leaves the emitter. -/
theorem failedIsTerminalUntilReset : Obligations.FailedIsTerminalUntilReset := by
  unfold Obligations.FailedIsTerminalUntilReset
  intro s t hs ha h
  have hkeeps : t.estate = .failed ∧ t.delivered = s.delivered := by
    rcases step_coreEdge_or_appends_nil ha h with ⟨hr, i, he⟩ | hkept
    · obtain ⟨-, -, t', h', hest, -, hdel, -⟩ := failedEmitterDrainsTheQueue s i hr he hs
      cases h.symm.trans h'
      exact ⟨hest, hdel⟩
    · exact ⟨hkept.estate.trans hs, hkept.delivered⟩
  obtain ⟨hest, hdel⟩ := hkeeps
  exact ⟨hest, t.txValid_eq_false_iff.2 (by simp [hest]), decide_eq_true_iff.2 hest, hdel⟩

/-- Of the sink's answer a cycle hands on only the emitter's decision. -/
theorem coreCycle_congr_of_not_send {s : State} (i : CoreInputs) (ready err : Bool) (hs : s.estate ≠ .send) :
    coreCycle i s = coreCycle { i with txReady := ready, txErr := err } s := by
  unfold coreCycle
  rw [emitterAction_congr_of_not_send i.txReady i.txErr ready err hs]
  rfl

/-- Unless the block runs, an edge of `clk` does not reach the emitter at all. -/
theorem runEvent_coreEdge_congr_of_not_send {s : State} (i : CoreInputs) (ready err : Bool) (hs : s.estate ≠ .send) :
    runEvent (.coreEdge i) s = runEvent (.coreEdge { i with txReady := ready, txErr := err }) s := by
  unfold runEvent
  cases s.resetLine with
  | powerOn => rfl
  | asserted => rfl
  | released => simp only [runReleased, coreCycle_congr_of_not_send i ready err hs]

/-- Settles O35: the two states differ in their event only, so a step takes both to the same state with its event taken. -/
theorem sinkInputsMatterOnlyInSend : Obligations.SinkInputsMatterOnlyInSend := by
  unfold Obligations.SinkInputsMatterOnlyInSend
  intro s i ready err rest hs
  exact runEvent_coreEdge_congr_of_not_send (s := ({ s with script := .coreEdge i :: rest } : State).advance) i ready err hs

/-- Settles O42: in a stall the core takes no report, so its part leaves the state. -/
theorem stalledCoreChangesNothing : Obligations.StalledCoreChangesNothing := by
  unfold Obligations.StalledCoreChangesNothing
  intro s i hr he hfull hs
  obtain ⟨u, hu, hstep⟩ := step_of_coreEdge hr he
  rcases corePart_cases hu with ⟨-, rfl⟩ | ⟨p, w, hn, -⟩
  · exact hstep
  · obtain ⟨hstalled, -⟩ := nextReport_eq_some (s.advance_nextReport i.pick ▸ hn)
    exact absurd (s.stalled_iff.2 ⟨hfull, hs⟩) (by simp [hstalled])

/-! ## Runs in SEND -/

/-- The rest of the frame begins with the byte that the emitter offers. -/
theorem State.frameBuf_drop_idx (s : State) :
    s.frameBuf.toList.drop s.idx.val = s.currentByte :: s.frameBuf.toList.drop (s.idx.val + 1) := by
  rw [List.drop_eq_getElem_cons (by simp)]
  simp [State.currentByte]

/-- From any byte of a frame: as many accepting edges as bytes are left deliver them, in order. -/
theorem run_accepting {rest : List EnvEvent} (edges : List CoreInputs) (s : State) (hr : s.running) (hs : s.estate = .send)
    (hlen : s.idx.val + edges.length = 25) (haccept : ∀ i ∈ edges, i.txReady = true ∧ i.txErr = false)
    (hscript : s.script = edges.map .coreEdge ++ rest) :
    ∃ t : State, Host.Core.run Sys2Proof.core edges.length s = .next t ∧ t.estate = .idle ∧
      t.delivered = s.delivered ++ s.frameBuf.toList.drop s.idx.val ∧ t.script = rest := by
  induction edges generalizing s with
  | nil => exact absurd s.idx.isLt (by simp at hlen; omega)
  | cons i edges ih =>
    obtain ⟨⟨hready, herr⟩, haccept⟩ := List.forall_mem_cons.1 haccept
    rw [List.length_cons] at hlen
    obtain ⟨-, -, t, hstep, hbuf, -, hnext⟩ := sendingEmitterHandsOverOneByte s i hr (State.event_of_script hscript) hs
    obtain ⟨htr, htscript⟩ := step_coreEdge_running hr hscript hstep
    rw [if_neg (by simp [herr]), if_pos hready] at hnext
    obtain ⟨hdel, hnext⟩ := hnext
    rw [List.length_cons, run_succ hstep, s.frameBuf_drop_idx, State.currentByte]
    split at hnext
    case isTrue =>
      obtain ⟨hest, hidx⟩ := hnext
      obtain ⟨t', hrun, hidle, hdel', hscript'⟩ := ih t htr hest (by omega) haccept htscript
      exact ⟨t', hrun, hidle, by rw [hdel', hdel, hbuf, hidx, List.append_assoc, List.singleton_append], hscript'⟩
    case isFalse =>
      obtain rfl : edges = [] := List.length_eq_zero_iff.1 (by omega)
      refine ⟨t, rfl, hnext, ?_, htscript⟩
      rw [hdel, List.drop_eq_nil_of_le (by simp; omega)]

/-- Settles O36: the run of the accepting edges from byte 0. -/
theorem acceptedFrameIsDeliveredWhole : Obligations.AcceptedFrameIsDeliveredWhole := by
  unfold Obligations.AcceptedFrameIsDeliveredWhole
  intro s edges rest hr hs hidx hlen haccept hscript
  have hrun := run_accepting edges s hr hs (by simp [hidx, hlen]) haccept hscript
  rwa [hlen, hidx] at hrun

/-- Settles O37, by induction on the edges: an unanswered edge leaves the emitter and the block as the next one needs them. -/
theorem unansweredByteIsOfferedForever : Obligations.UnansweredByteIsOfferedForever := by
  unfold Obligations.UnansweredByteIsOfferedForever
  intro n s edges rest hr hs hlen hsilent hscript
  induction edges generalizing n s with
  | nil =>
    subst hlen
    exact ⟨s, rfl, hs, rfl, rfl, rfl⟩
  | cons i edges ih =>
    subst hlen
    obtain ⟨⟨hready, herr⟩, hsilent⟩ := List.forall_mem_cons.1 hsilent
    obtain ⟨-, -, t, hstep, hbuf, -, hnext⟩ := sendingEmitterHandsOverOneByte s i hr (State.event_of_script hscript) hs
    obtain ⟨htr, htscript⟩ := step_coreEdge_running hr hscript hstep
    rw [if_neg (by simp [herr]), if_neg (by simp [hready])] at hnext
    obtain ⟨hest, hidx, hdel⟩ := hnext
    obtain ⟨t', hrun, hest', hidx', hbuf', hdel'⟩ := ih _ t htr hest rfl hsilent htscript
    exact ⟨t', (run_succ hstep).trans hrun, hest', hidx'.trans hidx, hbuf'.trans hbuf, hdel'.trans hdel⟩

/-! ## The bytes that are owed -/

theorem State.owed_of_idle {s : State} (h : s.estate = .idle) : s.owed = s.qc.flatMap fun c => (s.frameOf c).toList := by
  simp [State.owed, h]

theorem State.owed_of_send {s : State} (h : s.estate = .send) :
    s.owed = s.frameBuf.toList.drop s.idx.val ++ s.qc.flatMap fun c => (s.frameOf c).toList := by
  simp [State.owed, h]

/-- The frames depend on the parameters only. -/
theorem State.frameOf_congr {s t : State} (h : t.params = s.params) : t.frameOf = s.frameOf := by
  funext c
  simp only [State.frameOf, h]

/-- Commands put behind the others are owed after the others. -/
theorem State.AppendsCommands.owed {s t : State} {pushed : List CommandWord} (h : s.AppendsCommands t pushed)
    (hs : s.estate ≠ .failed) : t.owed = s.owed ++ pushed.flatMap fun c => (s.frameOf c).toList := by
  cases he : s.estate with
  | idle =>
    rw [owed_of_idle he, owed_of_idle (h.estate.trans he), frameOf_congr h.params, h.qc, List.flatMap_append]
  | send =>
    rw [owed_of_send he, owed_of_send (h.estate.trans he), frameOf_congr h.params, h.qc, h.frameBuf, h.idx, List.flatMap_append,
      List.append_assoc]
  | failed => exact absurd he hs

/-- A load moves the frame of QC's head from the queued bytes to the frame being sent. -/
theorem State.owed_loadFrame {s : State} {c : CommandWord} {rest : List CommandWord} (hs : s.estate = .idle)
    (hq : s.qc = c :: rest) : (s.popCommand.loadFrame c).owed = s.owed := by
  rw [owed_of_idle hs, owed_of_send rfl, hq, List.flatMap_cons]
  simp [hq, State.frameOf]

/-- An accepted byte moves from the head of the owed bytes to the end of the delivered ones. -/
theorem State.delivered_owed_acceptByte {s : State} (hs : s.estate = .send) :
    s.acceptByte.delivered ++ s.acceptByte.owed = s.delivered ++ s.owed := by
  obtain ⟨hdel, hbuf, hqc, hpar, -, -, -, hnext⟩ := s.acceptByte_eq
  rw [owed_of_send hs, hdel, s.frameBuf_drop_idx]
  split at hnext
  case isTrue =>
    obtain ⟨hest, hidx⟩ := hnext
    rw [owed_of_send (hest.trans hs), frameOf_congr hpar, hbuf, hqc, hidx]
    simp
  case isFalse =>
    rw [owed_of_idle hnext, frameOf_congr hpar, hqc, List.drop_eq_nil_of_le (by simp; omega)]
    simp

/-- Unless it fails, the emitter pops QC or leaves it, and what is delivered and owed together stays. -/
theorem commitEmitter_conserves {s u : State} {pushed : List CommandWord} (hu : s.AppendsCommands u pushed) (r e : Bool)
    (hf : (commitEmitter (emitterAction r e s) u).estate ≠ .failed) :
    ((commitEmitter (emitterAction r e s) u).qc = s.qc ++ pushed ∨
        (commitEmitter (emitterAction r e s) u).qc = s.qc.tail ++ pushed) ∧
      (commitEmitter (emitterAction r e s) u).delivered ++ (commitEmitter (emitterAction r e s) u).owed =
        u.delivered ++ u.owed := by
  cases hs : s.estate with
  | idle =>
    cases hq : s.qc with
    | nil =>
      rw [emitterAction_of_idle_nil r e hs hq, ← hq]
      exact ⟨.inl hu.qc, rfl⟩
    | cons c rest =>
      have huq : u.qc = c :: (rest ++ pushed) := by simpa [hq] using hu.qc
      rw [emitterAction_of_idle_cons r e hs hq, commitEmitter_load, State.owed_loadFrame (hu.estate.trans hs) huq]
      exact ⟨.inr (congrArg List.tail huq), rfl⟩
  | send =>
    rw [emitterAction_of_send r e hs] at hf ⊢
    cases e with
    | true => exact absurd rfl hf
    | false =>
      cases r with
      | true =>
        obtain ⟨-, -, hqc, -⟩ := u.acceptByte_eq
        exact ⟨.inl (hqc.trans hu.qc), State.delivered_owed_acceptByte (hu.estate.trans hs)⟩
      | false => exact ⟨.inl hu.qc, rfl⟩
  | failed =>
    refine absurd ?_ hf
    rw [emitterAction_of_failed r e hs]
    split <;> exact hu.estate.trans hs

/-- Settles O38: the core's push is owed last, and the emitter only moves bytes from owed to delivered. A failed block stays failed,
and every event but an edge of `clk` in a running block leaves both. -/
theorem everyCommandBecomesItsFrameOnceInOrder : Obligations.EveryCommandBecomesItsFrameOnceInOrder := by
  unfold Obligations.EveryCommandBecomesItsFrameOnceInOrder
  intro s t ha h ht
  have hs : s.estate ≠ .failed := fun hs => ht (failedIsTerminalUntilReset s t hs ha h).1
  rcases step_coreEdge_or_appends_nil ha h with ⟨hr, i, he⟩ | hkept
  · obtain ⟨u, pushed, hu, hlen, -, hstep⟩ := step_of_coreEdge_appends hr he
    cases h.symm.trans hstep
    obtain ⟨hqc, hbytes⟩ := commitEmitter_conserves hu i.txReady i.txErr ht
    refine ⟨pushed, hlen, hqc, hbytes.trans ?_⟩
    rw [hu.delivered, hu.owed hs, List.append_assoc]
  · refine ⟨[], Nat.zero_le _, .inl hkept.qc, ?_⟩
    rw [hkept.delivered, hkept.owed hs, List.append_assoc]

end Sys2Proof.Machine
end

section
/-! The statements about the report ports (44_cdc_ingress R138 to R149): the handshake and its refusal, the arbitration of the core's
pop, and what each event leaves of the two report FIFOs. An edge of `clk` of a running core pops one port at most and then lets
words cross in both; of the other events only a port's edge writes a FIFO. -/

namespace Sys2Proof.Machine

/-! ## The race of two arming reports -/

/-- RPT.A makes its own side armed and keeps its direction. -/
theorem applyEvents_arm {own : Intent} (h : own.armed = false) : applyEvents own true .none = { own with armed := true } := by
  simp [applyEvents, applyDirection, h]

/-- Settles O25: after the first report its side is armed, which closes the gate to the second one. -/
theorem armingRaceMakesOneCommand : Obligations.ArmingRaceMakesOneCommand := by
  unfold Obligations.ArmingRaceMakesOneCommand
  intro p h v h' v' s hL hR hest
  have disarmed : ∀ q, (s.intent q).armed = false := Port.forall_of_other .left hL hR
  obtain ⟨t, ht⟩ : ∃ t, exec (.ofEvents true .none p h v) s = .next t := ⟨_, exec_total _ s⟩
  obtain ⟨u, hu⟩ : ∃ u, exec (.ofEvents true .none p.other h' v') t = .next u := ⟨_, exec_total _ t⟩
  have town : t.intent p = { s.intent p with armed := true } :=
    (intent_of_exec_ofEvents ht).trans (applyEvents_arm (disarmed p))
  have tother : t.intent p.other = s.intent p.other := intent_other_of_exec_ofEvents ht
  have uown : u.intent p = { s.intent p with armed := true } := by
    have := intent_other_of_exec_ofEvents hu
    rwa [Port.other_other, town] at this
  have uother : u.intent p.other = { s.intent p.other with armed := true } := by
    rw [intent_of_exec_ofEvents hu, tother, applyEvents_arm (disarmed p.other)]
  have tqc : t.qc = s.qc ++ [commandWord true (s.intent p).fwd v h] := by
    rw [qc_of_exec_ofEvents ht, town, tother, if_pos ⟨rfl, disarmed p.other, hest⟩]
  have uqc : u.qc = t.qc := by
    rw [qc_of_exec_ofEvents hu, Port.other_other, uown, if_neg (by simp)]
  have armed : ∀ q, u.intent q = { s.intent q with armed := true } := Port.forall_of_other p uown uother
  exact ⟨t, u, ht, hu, uqc.trans tqc, armed .left, armed .right⟩

/-! ## What a FIFO shows, and what it keeps of a crossing and of an edge of its port -/

theorem State.shown_iff (s : State) (p : Port) (w : ReportWord) :
    s.shown p = some w ↔ (s.fifo p).visible ≠ 0 ∧ (s.fifo p).words.head? = some w := by
  rw [State.shown, fifoShown_eq_some, List.head?_eq_some_iff]

/-- A word that shows is not hidden by words behind it, nor by words that cross. -/
theorem fifoShown_of_grows {f f' : ReportFifo} {w : ReportWord} {pushed : List ReportWord} (hs : fifoShown f = some w)
    (hv : f.visible ≤ f'.visible) (hw : f'.words = f.words ++ pushed) : fifoShown f' = some w := by
  obtain ⟨hpos, rest, hf⟩ := (fifoShown_eq_some f w).1 hs
  exact (fifoShown_eq_some f' w).2 ⟨by omega, rest ++ pushed, by rw [hw, hf, List.cons_append]⟩

/-- A crossing moves no word and does not touch the write side. -/
theorem ReportFifo.Crosses.frame {n : Nat} {f f' : ReportFifo} (h : f.Crosses n f') :
    f'.words = f.words ∧ f'.unfreed = f.unfreed ∧ f'.offer = f.offer ∧ f'.live = f.live := by
  obtain ⟨-, -, -, -, -, -, hwords, hunfreed, hoffer, hlive⟩ := h
  exact ⟨hwords, hunfreed, hoffer, hlive⟩

theorem ReportFifo.Crosses.shown {n : Nat} {f f' : ReportFifo} {w : ReportWord} (h : f.Crosses n f')
    (hs : fifoShown f = some w) : fifoShown f' = some w :=
  fifoShown_of_grows (pushed := []) hs h.visible_le (by simpa using h.frame.1)

/-- The core-side view grows by the words that cross, which are no more than the edge says. -/
theorem ReportFifo.Crosses.exists_crossed {n : Nat} {f f' : ReportFifo} (h : f.Crosses n f')
    (hle : f.ages.length ≤ f.words.length) :
    ∃ crossed ≤ n, f.ages.length = crossed + f'.ages.length ∧ f'.visible = f.visible + crossed := by
  obtain ⟨delays, hages, hn, -, -, -, hwords, -⟩ := h
  have hlen : f.ages.length = delays.length + f'.ages.length := by simpa using congrArg List.length hages
  refine ⟨delays.length, hn, hlen, ?_⟩
  simp only [ReportFifo.visible, hwords]
  omega

/-- A FIFO grows where `pushed` stands behind its words and what shows, and the delays behind it, are as they were. -/
structure ReportFifo.Grows (f f' : ReportFifo) (pushed : List ReportWord) : Prop where
  words : f'.words = f.words ++ pushed
  visible : f'.visible = f.visible
  lastDelay : f'.lastDelay = f.lastDelay

theorem ReportFifo.Grows.refl (f : ReportFifo) : f.Grows f [] := ⟨(List.append_nil _).symm, rfl, rfl⟩

theorem ReportFifo.Grows.shown {f f' : ReportFifo} {w : ReportWord} {pushed : List ReportWord} (h : f.Grows f' pushed)
    (hs : fifoShown f = some w) : fifoShown f' = some w :=
  fifoShown_of_grows hs h.visible.ge h.words

/-- An edge of a port puts at most one word at the tail, and that is the word on offer. -/
theorem samplePort_grows (depth : Nat) (f : ReportFifo) (i : PortInputs) :
    ∃ pushed : List ReportWord, f.Grows (samplePort depth f i) pushed ∧ pushed.length ≤ 1 ∧
      (pushed ≠ [] → i.valid = true ∧ pushed = [i.data]) := by
  have lastDelay : (samplePort depth f i).lastDelay = f.lastDelay := by rw [samplePort_eq]
  by_cases hpush : (i.valid && fifoReady depth f) = true
  · refine ⟨[i.data], ⟨?_, samplePort_visible depth f i, lastDelay⟩, Nat.le_refl _, fun _ => ?_⟩
    · rw [samplePort_eq]
      exact if_pos hpush
    · exact ⟨(Bool.and_eq_true_iff.1 hpush).1, rfl⟩
  · refine ⟨[], ⟨?_, samplePort_visible depth f i, lastDelay⟩, Nat.zero_le _, fun hne => absurd rfl hne⟩
    rw [samplePort_eq, List.append_nil]
    exact if_neg hpush

/-- `p_ready` depends on the write side's count only: the words in the FIFO and the freed ones that it does not know of. -/
theorem fifoReady_congr {f f' : ReportFifo} (depth : Nat) (hlive : f'.live = f.live)
    (hcount : f'.words.length + f'.unfreed = f.words.length + f.unfreed) : fifoReady depth f' = fifoReady depth f := by
  simp only [fifoReady, hlive, hcount]

/-! ## The handshake -/

theorem offerBroken_eq_true_iff (f : ReportFifo) (i : PortInputs) :
    offerBroken f i = true ↔ ∃ w, f.offer = some w ∧ (i.valid = false ∨ i.data ≠ w) := by
  unfold offerBroken
  cases f.offer with
  | none => simp
  | some w => cases i.valid <;> simp

theorem State.keepsHandshake_iff (s : State) (p : Port) (i : PortInputs) :
    s.keepsHandshake p i ↔ offerBroken (s.fifo p) i = false := by
  unfold State.keepsHandshake offerBroken
  cases (s.fifo p).offer with
  | none => simp
  | some w => simp

theorem step_of_portEdge {s : State} {p : Port} {i : PortInputs} (hr : s.resetLine = .released) (he : s.event = .portEdge p i) :
    step s = portCycle p i s.advance := by
  rw [step_of_released hr, he]
  rfl

/-- Settles O47: a word that waits and is not offered unchanged is what `offerBroken` says, and `portCycle` refuses it. -/
theorem brokenHandshakeIsRefused : Obligations.BrokenHandshakeIsRefused := by
  unfold Obligations.BrokenHandshakeIsRefused
  intro s p i w hr he hoffer hbroken
  rw [step_of_portEdge hr he, portCycle, if_pos]
  exact (offerBroken_eq_true_iff _ i).2 ⟨w, by simpa using hoffer, hbroken⟩

theorem State.ready_iff (s : State) (p : Port) :
    s.ready p = true ↔ (s.fifo p).live = true ∧ (s.fifo p).words.length + (s.fifo p).unfreed < s.params.rptDepth :=
  fifoReady_iff _ _

/-- Settles O46: with the handshake kept the step is `samplePort` on the one FIFO, whose fields are `samplePort_eq`. -/
theorem portEdgePushesWhenValidAndReady : Obligations.PortEdgePushesWhenValidAndReady := by
  unfold Obligations.PortEdgePushesWhenValidAndReady
  refine ⟨State.ready_iff, fun s p i hr he hkeep => ⟨fun hfull => ?_, ?_⟩⟩
  · rw [← Bool.not_eq_true, s.ready_iff]
    omega
  · have hstep : step s = .next (s.advance.setFifo p (samplePort s.params.rptDepth (s.fifo p) i)) := by
      rw [step_of_portEdge hr he, portCycle, s.advance_fifo, (s.keepsHandshake_iff p i).1 hkeep]
      rfl
    refine ⟨_, hstep, ?_⟩
    rw [State.setFifo_fifo]
    refine ⟨rfl, samplePort_visible _ _ i, ?_⟩
    rw [samplePort_eq, show fifoReady s.params.rptDepth (s.fifo p) = s.ready p from rfl]
    refine ⟨rfl, rfl, rfl, ?_⟩
    split
    case isTrue hpush => simp [hpush]
    case isFalse hpush =>
      cases hv : i.valid with
      | false => simp
      | true =>
        have hready : s.ready p = false := by simpa [hv] using hpush
        simp [hready]

/-! ## The core's next report -/

section
variable {s : State} (pick : Port)

theorem nextReport_of_stalled (h : s.stalled = true) : s.nextReport pick = none := by
  simp [State.nextReport, h]

theorem nextReport_of_none_none (hl : s.shown .left = none) (hr : s.shown .right = none) : s.nextReport pick = none := by
  simp [State.nextReport, hl, hr]

theorem nextReport_of_some_none {w : ReportWord} (h : s.stalled = false) (hl : s.shown .left = some w)
    (hr : s.shown .right = none) : s.nextReport pick = some (.left, w) := by
  simp [State.nextReport, h, hl, hr]

theorem nextReport_of_none_some {w : ReportWord} (h : s.stalled = false) (hl : s.shown .left = none)
    (hr : s.shown .right = some w) : s.nextReport pick = some (.right, w) := by
  simp [State.nextReport, h, hl, hr]

/-- With both ports showing a word, the port that ARB_POLICY chooses is popped. -/
theorem nextReport_of_some_some {wl wr : ReportWord} (h : s.stalled = false) (hl : s.shown .left = some wl)
    (hr : s.shown .right = some wr) : ∃ w, s.nextReport pick = some (arbitrate s.params.arbPolicy s.arbLast pick, w) := by
  simp only [State.nextReport, h, hl, hr]
  cases arbitrate s.params.arbPolicy s.arbLast pick with
  | left => exact ⟨wl, rfl⟩
  | right => exact ⟨wr, rfl⟩

/-- A report that is popped while the other port shows a word is popped because ARB_POLICY says so. -/
theorem arbitrate_of_nextReport {p : Port} {w w' : ReportWord} (h : s.nextReport pick = some (p, w))
    (hother : s.shown p.other = some w') : arbitrate s.params.arbPolicy s.arbLast pick = p := by
  obtain ⟨hst, hown⟩ := nextReport_eq_some h
  have hboth : ∀ q, ∃ x, s.shown q = some x := Port.forall_of_other p ⟨w, hown⟩ ⟨w', hother⟩
  obtain ⟨wl, hl⟩ := hboth .left
  obtain ⟨wr, hr⟩ := hboth .right
  obtain ⟨x, hx⟩ := nextReport_of_some_some pick hst hl hr
  cases hx.symm.trans h
  rfl
end

/-- Settles O39: the core's part of the edge is `exec` of the decoded head. -/
theorem stepRunsTheDecodedReport : Obligations.StepRunsTheDecodedReport := by
  unfold Obligations.StepRunsTheDecodedReport
  intro s e p w i hr he hn hi _
  obtain ⟨-, hshown⟩ := nextReport_eq_some hn
  obtain ⟨-, hhead⟩ := (s.shown_iff p w).1 hshown
  obtain ⟨t, ht, hstep⟩ := step_of_coreEdge hr he
  rw [← s.advance_nextReport] at hn
  rw [corePart_of_nextReport hn, hi] at ht
  exact ⟨hhead, t, ht, hstep⟩

/-! ## The pop of an edge of `clk` -/

section
variable {s t : State} {i : CoreInputs} (hr : s.running) (he : s.event = .coreEdge i) (h : step s = .next t)
include hr he h

theorem poppedNone_of_nextReport (hn : s.nextReport i.pick = none) : PoppedNone i s t := by
  rcases step_ports hr he h with ⟨-, hpop⟩ | ⟨p, w, hn', -⟩
  · exact hpop
  · cases hn.symm.trans hn'

theorem popped_of_nextReport {p : Port} {w : ReportWord} (hn : s.nextReport i.pick = some (p, w)) : Popped i s t p := by
  rcases step_ports hr he h with ⟨hn', -⟩ | ⟨p', w', hn', hpop, -⟩
  · cases hn.symm.trans hn'
  · cases hn.symm.trans hn'
    exact hpop

/-- With both ports showing a word, an edge of `clk` out of a stall pops the port that ARB_POLICY chooses. -/
theorem popped_arbitrate {wl wr : ReportWord} (hst : s.stalled = false) (hL : s.shown .left = some wl)
    (hR : s.shown .right = some wr) : Popped i s t (arbitrate s.params.arbPolicy s.arbLast i.pick) := by
  obtain ⟨w, hn⟩ := nextReport_of_some_some i.pick hst hL hR
  exact popped_of_nextReport hr he h hn

/-- The port of `popped_arbitrate`, policy by policy (44_cdc_ingress R144, R146). -/
theorem popped_by_policy {wl wr : ReportWord} (hst : s.stalled = false) (hL : s.shown .left = some wl)
    (hR : s.shown .right = some wr) :
    if s.params.arbPolicy = some .leftFirst then Popped i s t .left
    else if s.params.arbPolicy = some .rightFirst then Popped i s t .right
    else if s.params.arbPolicy = some .roundRobin then
      (if s.arbLast = .right then Popped i s t .left else Popped i s t .right)
    else Popped i s t .left ∨ Popped i s t .right := by
  have hpop := popped_arbitrate hr he h hst hL hR
  cases hpol : s.params.arbPolicy with
  | none =>
    rw [hpol, arbitrate] at hpop
    cases hpick : i.pick with
    | left => exact .inl (hpick ▸ hpop)
    | right => exact .inr (hpick ▸ hpop)
  | some policy =>
    rw [hpol] at hpop
    cases policy with
    | leftFirst => exact hpop
    | rightFirst => exact hpop
    | roundRobin => cases hlast : s.arbLast <;> rw [hlast] at hpop <;> exact hpop

/-- What an edge of `clk` does to one port: its shown word is popped and then words cross, or words cross only. -/
theorem step_fifo_of_coreEdge (p : Port) :
    (∃ w, s.shown p = some w ∧ (s.fifo p).popped.Crosses (i.shows p) (t.fifo p)) ∨
      (s.fifo p).Crosses (i.shows p) (t.fifo p) := by
  rcases step_ports hr he h with ⟨-, -, hl, hr', -⟩ | ⟨q, w, hn, ⟨-, hown, hother⟩, -⟩
  · exact .inr (Port.forall_of_other (P := fun q => (s.fifo q).Crosses (i.shows q) (t.fifo q)) .left hl hr' p)
  · rcases Port.eq_or_eq_other q p with rfl | rfl
    · exact .inl ⟨w, (nextReport_eq_some hn).2, hown⟩
    · exact .inr hother
end

/-- Settles O40: the chain of cases is that of `State.nextReport`, and its last part is `popped_by_policy`. -/
theorem corePopsWhatTheArbitrationChooses : Obligations.CorePopsWhatTheArbitrationChooses := by
  unfold Obligations.CorePopsWhatTheArbitrationChooses
  refine ⟨State.shown_iff, fun s i hr he => ?_⟩
  obtain ⟨_, -, h⟩ := step_of_coreEdge hr he
  refine ⟨_, h, ?_⟩
  split
  case isTrue hfull => exact poppedNone_of_nextReport hr he h (nextReport_of_stalled i.pick (s.stalled_iff.2 hfull))
  case isFalse hroom =>
    have hst : s.stalled = false := Bool.eq_false_iff.2 (mt s.stalled_iff.1 hroom)
    cases hL : s.shown .left with
    | none =>
      cases hR : s.shown .right with
      | none => exact poppedNone_of_nextReport hr he h (nextReport_of_none_none i.pick hL hR)
      | some wr => exact popped_of_nextReport hr he h (nextReport_of_none_some i.pick hst hL hR)
    | some wl =>
      cases hR : s.shown .right with
      | none => exact popped_of_nextReport hr he h (nextReport_of_some_none i.pick hst hL hR)
      | some wr => simpa only [reduceCtorEq, and_self, if_false] using popped_by_policy hr he h hst hL hR

/-- Settles O41: the open policy answers the pick, and with no crossing the pop is all that the view sees. -/
theorem openArbitrationServesThePickedPort : Obligations.OpenArbitrationServesThePickedPort := by
  unfold Obligations.OpenArbitrationServesThePickedPort
  intro s i wl wr hr he hst hpol hL hR
  obtain ⟨_, -, h⟩ := step_of_coreEdge hr he
  have hpop := popped_arbitrate hr he h hst hL hR
  rw [hpol] at hpop
  refine ⟨_, h, hpop, fun hzero => ?_⟩
  obtain ⟨-, hcross, -⟩ := hpop
  rw [arbitrate, hzero, popped_eq_fifoPop] at hcross
  rw [hcross.visible_zero, fifoPop_visible]

/-! ## What a step leaves of the ports -/

/-- Between the assertions of `rst_n` a step is an edge of `clk` of a running core, or an edge of a port's clock that writes that
port's FIFO, or it changes no more than which domains are in reset. -/
theorem step_kinds {s t : State} (ha : s.event ≠ .resetAsserts) (h : step s = .next t) :
    (s.running ∧ ∃ i, s.event = .coreEdge i) ∨
    (∃ p i, s.event = .portEdge p i ∧ t = s.advance.setFifo p (samplePort s.params.rptDepth (s.fifo p) i)) ∨
    ∃ line live, ((∀ i, s.event ≠ .coreEdge i) → live = s.coreLive) ∧
      t = { s.advance with resetLine := line, coreLive := live } := by
  rcases step_cases h with ⟨he, -⟩ | ⟨-, -, rfl⟩ | ⟨-, -, rfl⟩ | ⟨-, -, rfl⟩ | ⟨-, p, i, he, -, rfl⟩ |
    ⟨hr, i, he, hl, -⟩ | ⟨-, i, he, -, rfl⟩
  · exact absurd he ha
  · exact .inr (.inr ⟨_, _, fun _ => rfl, rfl⟩)
  · exact .inr (.inr ⟨_, _, fun _ => rfl, rfl⟩)
  · exact .inr (.inr ⟨_, _, fun _ => rfl, rfl⟩)
  · exact .inr (.inl ⟨p, i, he, rfl⟩)
  · exact .inl ⟨⟨hr, hl⟩, i, he⟩
  · refine .inr (.inr ⟨s.resetLine, i.leaveReset || s.coreLive, fun hn => absurd he (hn i), ?_⟩)
    cases i.leaveReset <;> rfl

/-- But for the assertion of `rst_n` and the edges of `clk` of a running core, a step adds at most one word to a port, and that at an
edge of the port's clock at which the word is offered. -/
theorem step_fifo_grows {s t : State} (ha : s.event ≠ .resetAsserts) (hn : ¬(s.running ∧ ∃ i, s.event = .coreEdge i))
    (h : step s = .next t) (p : Port) :
    ∃ pushed : List ReportWord, (s.fifo p).Grows (t.fifo p) pushed ∧ pushed.length ≤ 1 ∧
      (pushed ≠ [] → ∃ i, s.event = .portEdge p i ∧ i.valid = true ∧ pushed = [i.data]) := by
  rcases step_kinds ha h with hedge | ⟨q, i, he, rfl⟩ | ⟨line, live, -, rfl⟩
  · exact absurd hedge hn
  · rcases Port.eq_or_eq_other q p with rfl | rfl
    · obtain ⟨pushed, hgrows, hlen, hoffer⟩ := samplePort_grows s.params.rptDepth (s.fifo p) i
      exact ⟨pushed, by simpa using hgrows, hlen, fun hne => ⟨i, he, hoffer hne⟩⟩
    · exact ⟨[], by simpa using .refl _, by simp⟩
  · exact ⟨[], by cases p <;> exact .refl _, by simp⟩

/-- Settles O45: an edge of `clk` pops the shown head or moves no word, and every other step only adds an offered word. -/
theorem reportFifosKeepOrder : Obligations.ReportFifosKeepOrder := by
  unfold Obligations.ReportFifosKeepOrder
  intro s t p ha h
  by_cases hedge : s.running ∧ ∃ i, s.event = .coreEdge i
  · obtain ⟨hr, i, he⟩ := hedge
    rcases step_fifo_of_coreEdge hr he h p with ⟨w, hshown, hcross⟩ | hcross
    · obtain ⟨-, rest, hwords⟩ := lt_of_shown hshown
      refine ⟨[w], [], ?_, Nat.le_refl _, fun _ => ⟨i, he⟩, fun hne => absurd rfl hne⟩
      simp [hcross.frame.1, popped_eq_fifoPop, hwords]
    · exact ⟨[], [], by simp [hcross.frame.1], Nat.zero_le _, fun _ => ⟨i, he⟩, fun hne => absurd rfl hne⟩
  · obtain ⟨pushed, hgrows, hlen, hoffer⟩ := step_fifo_grows ha hedge h p
    exact ⟨[], pushed, hgrows.words.symm, by simpa using hlen, fun hne => absurd rfl hne, hoffer⟩

/-- But for the assertion of `rst_n` and the edges of `clk` of a running core, a step leaves ARB_LAST. -/
theorem step_arbLast {s t : State} (ha : s.event ≠ .resetAsserts) (hn : ¬(s.running ∧ ∃ i, s.event = .coreEdge i))
    (h : step s = .next t) : t.arbLast = s.arbLast := by
  rcases step_kinds ha h with hedge | ⟨q, i, -, rfl⟩ | ⟨line, live, -, rfl⟩
  · exact absurd hedge hn
  · simp
  · rfl

/-- Settles O44: with `p` showing a word, ROUND_ROBIN pops the other port only where ARB_LAST is `p`, and nothing but a pop hides
a word that shows. -/
theorem roundRobinStarvesNoPort : Obligations.RoundRobinStarvesNoPort := by
  unfold Obligations.RoundRobinStarvesNoPort
  intro s t p w hpol ha hshown h
  by_cases hedge : s.running ∧ ∃ i, s.event = .coreEdge i
  · obtain ⟨hr, i, he⟩ := hedge
    rcases step_ports hr he h with ⟨-, harb, hl, hr', -⟩ | ⟨q, w', hn, hpop, -⟩
    · have hcross : ∀ q, (s.fifo q).Crosses (i.shows q) (t.fifo q) := Port.forall_of_other .left hl hr'
      exact .inr ⟨(hcross p).shown hshown, .inr ⟨harb, [], by simp [(hcross p.other).frame.1]⟩⟩
    · rcases Port.eq_or_eq_other q p with rfl | rfl
      · exact .inl ⟨i, he, hpop⟩
      · have hlast : s.arbLast.other = q := by
          have hchosen := arbitrate_of_nextReport i.pick hn hshown
          rwa [hpol] at hchosen
        obtain ⟨-, -, hcross⟩ := id hpop
        rw [Port.other_other]
        exact .inr ⟨hcross.shown hshown, .inl ⟨⟨i, he, hpop⟩, by rw [← hlast, Port.other_other]⟩⟩
  · obtain ⟨_, hgrows, -⟩ := step_fifo_grows ha hedge h p
    obtain ⟨pushed, hother, -⟩ := step_fifo_grows ha hedge h p.other
    exact .inr ⟨hgrows.shown hshown, .inr ⟨step_arbLast ha hedge h, pushed, hother.words⟩⟩

/-! ## What the crossings move -/

/-- At an edge of `clk` the words that cross add to a port's core-side view and the popped one leaves it. -/
theorem step_crossing_of_coreEdge {s t : State} {i : CoreInputs} (hr : s.running) (he : s.event = .coreEdge i)
    (h : step s = .next t) (p : Port) (hle : (s.fifo p).ages.length ≤ (s.fifo p).words.length) :
    ∃ taken crossed : Nat, taken ≤ 1 ∧
      { s.fifo p with words := (s.fifo p).words.drop taken, unfreed := (s.fifo p).unfreed + taken }.Crosses (i.shows p)
        (t.fifo p) ∧
      crossed ≤ i.shows p ∧ (s.fifo p).ages.length = crossed + (t.fifo p).ages.length ∧
      (t.fifo p).visible + taken = (s.fifo p).visible + crossed := by
  rcases step_fifo_of_coreEdge hr he h p with ⟨w, hshown, hcross⟩ | hcross
  · obtain ⟨hlt, -⟩ := lt_of_shown hshown
    obtain ⟨hpos, -⟩ := (fifoShown_eq_some _ w).1 hshown
    obtain ⟨crossed, hn, hages, hvisible⟩ := hcross.exists_crossed (by simp [popped_eq_fifoPop]; omega)
    refine ⟨1, crossed, Nat.le_refl _, by rw [List.drop_one]; exact hcross, hn, hages, ?_⟩
    rw [popped_eq_fifoPop, fifoPop_visible] at hvisible
    omega
  · obtain ⟨crossed, hn, hages, hvisible⟩ := hcross.exists_crossed hle
    exact ⟨0, crossed, Nat.zero_le _, hcross, hn, hages, hvisible⟩

/-- The status outputs read the intents, ESTATE, QC and what the two core-side views show. -/
theorem State.status_congr {s t : State} (hL : t.intentL = s.intentL) (hR : t.intentR = s.intentR)
    (hest : t.estate = s.estate) (hqc : t.qc = s.qc) (hvl : t.ql.visible = s.ql.visible) (hvr : t.qr.visible = s.qr.visible) :
    t.status = s.status := by
  simp only [State.status, State.stIdle, hL, hR, hest, hqc, hvl, hvr]

/-- But for the assertion of `rst_n`, the core leaves reset at an edge of `clk` only (70_reset_and_hazards R168). -/
theorem step_coreLive {s t : State} (ha : s.event ≠ .resetAsserts) (hn : ∀ i, s.event ≠ .coreEdge i) (h : step s = .next t) :
    t.coreLive = s.coreLive := by
  rcases step_kinds ha h with ⟨-, i, he⟩ | ⟨q, i, -, rfl⟩ | ⟨line, live, hlive, rfl⟩
  · exact absurd he (hn i)
  · simp
  · exact hlive hn

/-- A step that is no edge of `clk`, no edge of the port's clock and no assertion of `rst_n` holds the port's whole FIFO. -/
theorem step_holds_fifo {s t : State} {p : Port} (ha : s.event ≠ .resetAsserts)
    (hn : ¬(s.running ∧ ∃ i, s.event = .coreEdge i)) (hp : ∀ i, s.event ≠ .portEdge p i) (h : step s = .next t) :
    t.fifo p = s.fifo p := by
  rcases step_kinds ha h with hedge | ⟨q, i, he, rfl⟩ | ⟨line, live, -, rfl⟩
  · exact absurd hedge hn
  · rcases Port.eq_or_eq_other q p with rfl | rfl
    · exact absurd he (hp i)
    · simp
  · cases p <;> rfl

/-- A step that is no edge of the port's clock and no assertion of `rst_n` holds what the port's producer sees: an edge of `clk` takes
a word only together with leaving a freed entry that the write side does not know of. -/
theorem step_holds_port {s t : State} {p : Port} (ha : s.event ≠ .resetAsserts) (hp : ∀ i, s.event ≠ .portEdge p i)
    (h : step s = .next t) :
    (t.fifo p).live = (s.fifo p).live ∧ (t.fifo p).offer = (s.fifo p).offer ∧
      (t.fifo p).words.length + (t.fifo p).unfreed = (s.fifo p).words.length + (s.fifo p).unfreed := by
  by_cases hedge : s.running ∧ ∃ i, s.event = .coreEdge i
  · obtain ⟨hr, i, he⟩ := hedge
    rcases step_fifo_of_coreEdge hr he h p with ⟨w, hshown, hcross⟩ | hcross
    · obtain ⟨-, rest, hwords⟩ := lt_of_shown hshown
      obtain ⟨hw, hu, hoffer, hlive⟩ := hcross.frame
      refine ⟨hlive, hoffer, ?_⟩
      rw [hw, hu, popped_eq_fifoPop, fifoPop_words, fifoPop_unfreed, hwords, List.tail_cons, List.length_cons]
      omega
    · obtain ⟨hw, hu, hoffer, hlive⟩ := hcross.frame
      exact ⟨hlive, hoffer, by rw [hw, hu]⟩
  · rw [step_holds_fifo ha hedge hp h]
    exact ⟨rfl, rfl, rfl⟩

/-- Settles O48: at an edge of `clk` what a port's pop and crossing leave, and at the other steps the fields that are held. -/
theorem crossingsMoveOnlyTheViews : Obligations.CrossingsMoveOnlyTheViews := by
  unfold Obligations.CrossingsMoveOnlyTheViews
  refine ⟨fun s t i p hr he hle h => step_crossing_of_coreEdge hr he h p hle, fun s t ha h => ⟨fun hn => ?_, fun p hp => ?_⟩⟩
  · have hedge : ¬(s.running ∧ ∃ i, s.event = .coreEdge i) := fun ⟨_, i, he⟩ => hn i he
    obtain ⟨hL, hR⟩ := step_intents_of_not_coreEdge ha hn h
    have hkept : s.AppendsCommands t [] := (step_coreEdge_or_appends_nil ha h).resolve_left hedge
    have hqc : t.qc = s.qc := by simpa using hkept.qc
    have htx : t.txValid = s.txValid := by rw [State.txValid, hkept.estate, State.txValid]
    obtain ⟨_, hl, -⟩ := step_fifo_grows ha hedge h .left
    obtain ⟨_, hr, -⟩ := step_fifo_grows ha hedge h .right
    exact ⟨hL, hR, step_arbLast ha hedge h, hqc, hkept.estate, hkept.idx, hkept.frameBuf, step_coreLive ha hn h, hl.visible,
      hr.visible, hl.lastDelay, hr.lastDelay, State.status_congr hL hR hkept.estate hqc hl.visible hr.visible, htx,
      hkept.delivered⟩
  · obtain ⟨hlive, hoffer, hcount⟩ := step_holds_port ha hp h
    refine ⟨hlive, hoffer, ?_, fun hn => step_holds_fifo ha (fun ⟨_, i, he⟩ => hn i he) hp h⟩
    rw [State.ready, noStepChangesTheParameters s t h]
    exact fifoReady_congr _ hlive hcount

end Sys2Proof.Machine
end

section
/-! Both ports have the same rights (60_exceptions R162): the exchange of left and right runs through the form, through the register
that the form reads, and through what the report leaves, and in none of them does either side stand out. -/

namespace Sys2Proof.Machine

@[simp] theorem swapPort_ofEvents (armt : Bool) (dir : DirRequest) (p : Port) (h v : Half) :
    swapPort (.ofEvents armt dir p h v) = .ofEvents armt dir p.other h v := by
  cases armt <;> cases dir <;> rfl

@[simp] theorem State.swapSides_intent_other (s : State) (p : Port) : s.swapSides.intent p.other = s.intent p := by
  cases p <;> rfl

/-- The effect of a report names the own and the other side only, so it commutes with the exchange of the sides. -/
theorem State.swapSides_afterReport (s : State) (p : Port) (new : Intent) (h v : Half) :
    (s.afterReport p new h v).swapSides = s.swapSides.afterReport p.other new h v := by
  cases p <;> rfl

/-- Settles O24: RPT.ERR answers the state it is given; another form reads the same own intent on the exchanged side, and its effect
commutes with the exchange. -/
theorem sidesAreInterchangeable : Obligations.SidesAreInterchangeable := by
  unfold Obligations.SidesAreInterchangeable
  intro i s t he
  obtain ⟨p, ignored, rfl⟩ | ⟨armt, dir, p, h, v, rfl⟩ := i.eq_rptErr_or_ofEvents
  · obtain rfl := eq_of_exec_rptErr he
    exact exec_rptErr p.other ignored t.swapSides
  · rw [swapPort_ofEvents, exec_ofEvents_eq_afterReport, State.swapSides_intent_other, eq_of_exec_ofEvents he,
      State.swapSides_afterReport]

end Sys2Proof.Machine
end

section
/-! The statements about reset and quiescence (70_reset_and_hazards R167 to R184). With `rst_n` not released a step has one equation for each
value of the reset line; with it released, a core in reset has one more. In a quiescent block the three kinds of step that are left
(`step_kinds`) write no register and no queue. -/

namespace Sys2Proof.Machine

/-! ## A step by the reset line -/

section
variable {s : State}

theorem step_of_powerOn (hr : s.resetLine = .powerOn) : step s = runPowerOn s.event s.advance := by
  simp [step, runEvent, hr]

theorem step_of_asserted (hr : s.resetLine = .asserted) : step s = runAsserted s.event s.advance := by
  simp [step, runEvent, hr]

/-- 70_reset_and_hazards R167: before the first reset as well as in a run, the assertion takes effect at once. -/
theorem step_of_resetAsserts (hr : s.resetLine ≠ .asserted) (he : s.event = .resetAsserts) :
    step s = .next s.advance.assertReset := by
  cases hline : s.resetLine with
  | powerOn => rw [step_of_powerOn hline, he]; rfl
  | asserted => exact absurd hline hr
  | released => rw [step_of_released hline, he]; rfl

theorem runAsserted_of_ne_resetReleases {e : EnvEvent} (he : e ≠ .resetReleases) : runAsserted e s = .next s := by
  cases e with
  | resetReleases => exact absurd rfl he
  | resetAsserts => rfl
  | portEdge p i => rfl
  | coreEdge i => rfl

theorem runPowerOn_of_ne_resetAsserts {e : EnvEvent} (he : e ≠ .resetAsserts) :
    runPowerOn e s = .refused .stateBeforeReset := by
  cases e with
  | resetAsserts => exact absurd rfl he
  | resetReleases => rfl
  | portEdge p i => rfl
  | coreEdge i => rfl

/-- 70_reset_and_hazards R168: to a core in reset an edge of `clk` is no cycle, only the choice to leave it. -/
theorem step_of_coreEdge_held {i : CoreInputs} (hr : s.resetLine = .released) (he : s.event = .coreEdge i)
    (hl : s.coreLive = false) : step s = .next { s.advance with coreLive := i.leaveReset } := by
  rw [step_of_released hr, he]
  simp only [runReleased, State.advance_coreLive, hl]
  cases i.leaveReset with
  | true => rfl
  | false => simp [State.advance, hl]

/-- After the first assertion of `rst_n`, and with the handshake kept, every step completes. -/
theorem exists_step (hr : s.resetLine ≠ .powerOn) (hkeeps : ∀ p i, s.event = .portEdge p i → s.keepsHandshake p i) :
    ∃ t, step s = .next t := by
  cases hline : s.resetLine with
  | powerOn => exact absurd hline hr
  | asserted =>
    rw [step_of_asserted hline]
    cases s.event <;> exact ⟨_, rfl⟩
  | released =>
    cases he : s.event with
    | resetAsserts => exact ⟨_, step_of_resetAsserts (by simp [hline]) he⟩
    | resetReleases => exact ⟨_, by rw [step_of_released hline, he]; rfl⟩
    | portEdge p i =>
      obtain ⟨-, t, h, -⟩ := portEdgePushesWhenValidAndReady.2 s p i hline he (hkeeps p i he)
      exact ⟨t, h⟩
    | coreEdge i =>
      cases hl : s.coreLive with
      | false => exact ⟨_, step_of_coreEdge_held hline he hl⟩
      | true =>
        obtain ⟨_, -, h⟩ := step_of_coreEdge ⟨hline, hl⟩ he
        exact ⟨_, h⟩
end

/-! ## Reset -/

/-- Settles O50: the assertion is `State.assertReset`, whose fields are read off; while `rst_n` is low only its release acts. -/
theorem assertedResetHoldsEverything : Obligations.AssertedResetHoldsEverything := by
  unfold Obligations.AssertedResetHoldsEverything
  refine ⟨fun s hr he => ⟨_, step_of_resetAsserts hr he, ?_⟩, fun s hr he => ?_⟩
  · have hstatus : s.advance.assertReset.status = State.reset.status := State.status_congr rfl rfl rfl rfl rfl rfl
    exact ⟨rfl, rfl, rfl, rfl, rfl, rfl, rfl, rfl, rfl, rfl, rfl, rfl, hstatus, rfl, rfl⟩
  · rw [step_of_asserted hr]
    exact runAsserted_of_ne_resetReleases he

/-- A port in reset is not ready, whatever room its FIFO has (70_reset_and_hazards R168). -/
theorem State.ready_of_not_live {s : State} {p : Port} (hl : (s.fifo p).live = false) : s.ready p = false := by
  rw [← Bool.not_eq_true, s.ready_iff, hl]
  simp

/-- Settles O51: the release leaves every domain, and a port that is not ready takes no word at the edge (O46). -/
theorem domainsLeaveResetAtTheirOwnEdges : Obligations.DomainsLeaveResetAtTheirOwnEdges := by
  unfold Obligations.DomainsLeaveResetAtTheirOwnEdges
  refine ⟨fun s hr he => ?_, fun s p i hr he hkeeps => ?_, fun s i => step_of_coreEdge_held⟩
  · rw [step_of_asserted hr, he]
    rfl
  · obtain ⟨-, t, h, -, -, -, -, hlive, hpush⟩ := portEdgePushesWhenValidAndReady.2 s p i hr he hkeeps
    refine ⟨t, h, hlive, fun hl => ?_⟩
    have hready := State.ready_of_not_live hl
    rw [if_neg (by simp [hready])] at hpush
    obtain ⟨hwords, -⟩ := hpush
    exact ⟨hready, hwords⟩

/-- Settles O52: of the events before the first reset only the assertion has a meaning. -/
theorem runsMustStartFromReset : Obligations.RunsMustStartFromReset := by
  unfold Obligations.RunsMustStartFromReset
  intro s hr he
  rw [step_of_powerOn hr]
  exact runPowerOn_of_ne_resetAsserts he

/-! ## Quiescence -/

theorem ReportFifo.visible_of_words_nil {f : ReportFifo} (hw : f.words = []) : f.visible = 0 := by
  simp [ReportFifo.visible, hw]

/-- 70_reset_and_hazards R184: an empty FIFO shows no word, so quiescence speaks of the words and offers, of QC and of ESTATE only. -/
theorem State.quiescent_iff (s : State) :
    s.quiescent = true ↔ (∀ p, (s.fifo p).words = [] ∧ (s.fifo p).offer = none) ∧ s.qc = [] ∧ s.estate ≠ .send := by
  have hports : (∀ p, (s.fifo p).words = [] ∧ (s.fifo p).offer = none) ↔
      (s.ql.words = [] ∧ s.ql.offer = none) ∧ s.qr.words = [] ∧ s.qr.offer = none :=
    ⟨fun h => ⟨h .left, h .right⟩, fun ⟨hl, hr⟩ => Port.forall_of_other .left hl hr⟩
  simp only [State.quiescent, Bool.and_eq_true, s.stIdle_iff, List.isEmpty_iff, Option.isNone_iff_eq_none, hports]
  constructor
  · rintro ⟨⟨⟨⟨⟨-, -, hqc, hest⟩, hwl⟩, hwr⟩, hol⟩, hor⟩
    exact ⟨⟨⟨hwl, hol⟩, hwr, hor⟩, hqc, hest⟩
  · rintro ⟨⟨⟨hwl, hol⟩, hwr, hor⟩, hqc, hest⟩
    exact ⟨⟨⟨⟨⟨ReportFifo.visible_of_words_nil hwl, ReportFifo.visible_of_words_nil hwr, hqc, hest⟩, hwl⟩, hwr⟩, hol⟩, hor⟩

/-- `t` is `s` with one event of the script gone: each register, each queue, each offer and the delivered bytes are the same. -/
structure State.Rests (s t : State) : Prop where
  intent : ∀ p, t.intent p = s.intent p
  arbLast : t.arbLast = s.arbLast
  words : ∀ p, (t.fifo p).words = (s.fifo p).words
  offer : ∀ p, (t.fifo p).offer = (s.fifo p).offer
  qc : t.qc = s.qc
  estate : t.estate = s.estate
  idx : t.idx = s.idx
  frameBuf : t.frameBuf = s.frameBuf
  delivered : t.delivered = s.delivered
  script : t.script = s.script.tail

theorem State.Rests.quiescent {s t : State} (h : s.Rests t) (hq : s.quiescent = true) : t.quiescent = true := by
  rw [State.quiescent_iff] at hq ⊢
  obtain ⟨hports, hqc, hest⟩ := hq
  refine ⟨fun p => ?_, h.qc.trans hqc, by rwa [h.estate]⟩
  obtain ⟨hwords, hoffer⟩ := hports p
  exact ⟨(h.words p).trans hwords, (h.offer p).trans hoffer⟩

/-- Only which domains are in reset changes. -/
theorem State.rests_of_resetChange (s : State) (line : ResetLine) (live : Bool) :
    s.Rests { s.advance with resetLine := line, coreLive := live } where
  intent := fun p => by cases p <;> rfl
  arbLast := rfl
  words := fun p => by cases p <;> rfl
  offer := fun p => by cases p <;> rfl
  qc := rfl
  estate := rfl
  idx := rfl
  frameBuf := rfl
  delivered := rfl
  script := rfl

/-- Words cross. -/
theorem State.rests_showWords (s : State) (i : CoreInputs) : s.Rests (s.advance.showWords i) where
  intent := by simp
  arbLast := rfl
  words := by simp
  offer := by simp
  qc := rfl
  estate := rfl
  idx := rfl
  frameBuf := rfl
  delivered := rfl
  script := rfl

/-- A port whose producer offers nothing, neither now nor before, has an edge of its clock. -/
theorem State.rests_samplePort (s : State) {p : Port} {i : PortInputs} (depth : Nat) (hv : i.valid = false)
    (ho : (s.fifo p).offer = none) : s.Rests (s.advance.setFifo p (samplePort depth (s.fifo p) i)) where
  intent := by simp
  arbLast := by simp
  words := Port.forall_of_other p (by simp [samplePort_eq, hv]) (by simp)
  offer := Port.forall_of_other p (by simp [samplePort_eq, hv, ho]) (by simp)
  qc := by simp
  estate := by simp
  idx := by simp
  frameBuf := by simp
  delivered := by simp
  script := by simp

section
variable {s : State} (hq : s.quiescent = true)
include hq

/-- A quiescent block shows the core no report. -/
theorem nextReport_of_quiescent (pick : Port) : s.nextReport pick = none := by
  obtain ⟨hports, -⟩ := s.quiescent_iff.1 hq
  have hshown : ∀ p, s.shown p = none := fun p => if_pos (ReportFifo.visible_of_words_nil (hports p).1)
  exact nextReport_of_none_none pick (hshown .left) (hshown .right)

/-- In a quiescent block the emitter has neither a command nor a byte to hand over. -/
theorem emitterAction_of_quiescent (r e : Bool) : emitterAction r e s = .hold := by
  obtain ⟨-, hqc, hest⟩ := s.quiescent_iff.1 hq
  cases hs : s.estate with
  | idle => exact emitterAction_of_idle_nil r e hs hqc
  | send => exact absurd hs hest
  | failed => rw [emitterAction_of_failed r e hs, if_pos hqc]

/-- With no report to pop and no command to load, an edge of `clk` is its crossing only. -/
theorem step_coreEdge_of_quiescent {i : CoreInputs} (hr : s.running) (he : s.event = .coreEdge i) :
    step s = .next (s.advance.showWords i) := by
  obtain ⟨u, hu, hstep⟩ := step_of_coreEdge hr he
  have hnone := nextReport_of_quiescent hq i.pick
  rcases corePart_cases hu with ⟨-, rfl⟩ | ⟨p, w, hn, -⟩
  · rwa [emitterAction_of_quiescent hq, commitEmitter_hold] at hstep
  · cases hnone.symm.trans (s.advance_nextReport i.pick ▸ hn)

/-- 70_reset_and_hazards R184: from a quiescent state every event but an offer and the assertion of `rst_n` leaves the block at rest. -/
theorem step_rests_of_quiescent (hr : s.resetLine ≠ .powerOn) (ha : s.event ≠ .resetAsserts)
    (hn : ∀ p i, s.event = .portEdge p i → i.valid = false) : ∃ t, step s = .next t ∧ s.Rests t := by
  obtain ⟨hports, -⟩ := s.quiescent_iff.1 hq
  have hoffer : ∀ p, (s.fifo p).offer = none := fun p => (hports p).2
  obtain ⟨t, h⟩ := exists_step hr fun p i _ w hw => by cases (hoffer p).symm.trans hw
  refine ⟨t, h, ?_⟩
  rcases step_kinds ha h with ⟨hrun, i, he⟩ | ⟨p, i, he, rfl⟩ | ⟨line, live, -, rfl⟩
  · cases h.symm.trans (step_coreEdge_of_quiescent hq hrun he)
    exact s.rests_showWords i
  · exact s.rests_samplePort _ (hn p i he) (hoffer p)
  · exact s.rests_of_resetChange line live
end

theorem State.finished_iff (s : State) : s.finished = true ↔ s.quiescent = true ∧ ∀ e ∈ s.script, isOffer e = false := by
  simp [State.finished]

theorem State.event_mem_script {s : State} (h : s.script ≠ []) : s.event ∈ s.script := by
  obtain ⟨e, rest, hscript⟩ := List.exists_cons_of_ne_nil h
  rw [State.event_of_script hscript, hscript]
  exact List.mem_cons_self

theorem State.Rests.finished {s t : State} (h : s.Rests t) (hf : s.finished = true) : t.finished = true := by
  rw [State.finished_iff] at hf ⊢
  obtain ⟨hq, hscript⟩ := hf
  exact ⟨h.quiescent hq, fun e he => hscript e (List.mem_of_mem_tail (h.script ▸ he))⟩

/-- Settles O54: no event that is left moves the block, and a finished run's script holds no offer. -/
theorem quiescentBlockStaysAsItIs : Obligations.QuiescentBlockStaysAsItIs := by
  unfold Obligations.QuiescentBlockStaysAsItIs
  refine ⟨fun s hq hr ha hn => ?_, fun s hf hr hscript ha => ?_⟩
  · obtain ⟨t, h, hrest⟩ := step_rests_of_quiescent hq hr ha hn
    exact ⟨t, h, hrest.quiescent hq, hrest.intent .left, hrest.intent .right, hrest.arbLast, hrest.words .left,
      hrest.words .right, hrest.qc, hrest.estate, hrest.idx, hrest.frameBuf, hrest.delivered⟩
  · obtain ⟨hq, hnone⟩ := s.finished_iff.1 hf
    have hn : ∀ p i, s.event = .portEdge p i → i.valid = false := fun p i he => by
      simpa [he, isOffer] using hnone s.event (State.event_mem_script hscript)
    obtain ⟨t, h, hrest⟩ := step_rests_of_quiescent hq hr ha hn
    have hL : t.intentL = s.intentL := hrest.intent .left
    have hR : t.intentR = s.intentR := hrest.intent .right
    exact ⟨t, h, hrest.finished hf, by rw [State.observation, hrest.delivered, hL, hR, hrest.estate]⟩

end Sys2Proof.Machine
end
